-- ==== Sys2Proof/Word.lean ====
section
/-! DEFINITION. The word types of the pycom UART framer: every buffer and wire access of the block is one byte wide
(spec/00_scope.md R8, spec/20_memory.md R68). -/

namespace Sys2Proof

/-- One byte: an element of a buffer, a byte on the wire, a link address (R4 ADDR_W, R6). -/
abbrev Byte := BitVec 8

/-- What one host access carries: `h_wdata[65:0]` and `h_rdata[65:0]` (R62). -/
abbrev HostWord := BitVec 66

end Sys2Proof
end

