-- ==== Sys2Proof/Config.lean ====
section
/-! DEFINITION. The configuration of the block: the open parameters of R4, the wire constants and the wake table of R5,
and the model's one free value. -/

namespace Sys2Proof.Config

/-- The OPEN parameters of R4 (92_eei_decisions.md, "Open parameters"; U16: a model takes them as arguments).
They are carried in the machine's state as constants no step writes, so that a statement about every state is a
statement about every choice of them.  `S.max_attempts` is no parameter here: the host supplies it through SINIT. -/
structure Params where
  /-- PAY_MAX: capacity of the payload operand buffer in bytes (D18). -/
  payMax : Nat
  /-- RX_MAX: capacity of the receive candidate buffer in bytes (D9). -/
  rxMax : Nat
  /-- MAX_POINTS: capacity of the breakpoint table (D16). -/
  maxPoints : Nat
deriving DecidableEq, Repr

/-- The defaults the spec uses in its test vectors: PAY_MAX = 64, RX_MAX = TX_MAX = 328, MAX_POINTS = 16 (R4). -/
def Params.vectors : Params := { payMax := 64, rxMax := 328, maxPoints := 16 }

/-- TX_MAX = PAY_MAX + 264, the length of the longest outbound frame (R4, R101). -/
def Params.txMax (p : Params) : Nat := p.payMax + 264

/-- C_PRE, the wake sentinel (R5). -/
def cPre : Byte := 0xFE#8

/-- C_MARK, each of the two bytes of the frame marker (R5). -/
def cMark : Byte := 0xFE#8

/-- C_TERM, the terminator sentinel (R5). -/
def cTerm : Byte := 0xFD#8

/-- C_OK, the status byte "OK"; the block never compares a byte with it (R5, R112). -/
def cOk : Byte := 0xFB#8

/-- C_NG, the status byte "NG (rejected)" (R5). -/
def cNg : Byte := 0xFA#8

/-- WAKE(baud): link speed and preamble repeat count (R5, R180). -/
def wakeTable : List (Nat × Byte) :=
  [(115200, 150#8), (57600, 75#8), (38400, 50#8), (19200, 25#8), (9600, 13#8)]

/-- WAKE of "any other value" (R5). -/
def wakeDefault : Byte := 7#8

/-- FREQ_MAX, the largest encodable frequency (R4, R151). -/
def freqMax : Int := 9999999999

/-- FREE VALUE (notes/assumptions/3.md): what the `k`-th host read that the spec leaves "any value" delivers: a read
of anything but STATUS, ERR_INFO, ATTEMPTS and TP_BAUD while BUSY = 1 (R81, U3), and a read of a buffer byte at an
index that holds no value (R63, R64).  It has no body: nothing can be proved about it. -/
opaque freeRead : Nat → HostWord

end Sys2Proof.Config
end

