-- ==== Sys2Proof/Syntax.lean ====
section
/-! DEFINITION. The instructions: one constructor per row of spec/opcode_table.json.  Neither kind carries an operand
field: "the word has no operand fields: every operand is taken from the operand registers" (30_encoding.md R105), and
a wire constant is one whole byte (R103). -/

namespace Sys2Proof

/-- The two spaces of spec/opcode_table.json: a command word the host writes to CMD (R105), and a byte the Transport
offers on the serial link (R103). -/
inductive Space where
  | command
  | wire
deriving DecidableEq, Repr

/-- The rows of spec/opcode_table.json: the twelve operations of R106 and the four wire constants of R103. -/
inductive Instr where
  /-- 0x01 ADDRV_T: validate a textual address (R132). -/
  | addrvT
  /-- 0x02 ADDRV_N: validate a numeric address (R133). -/
  | addrvN
  /-- 0x03 SINIT: construct the Session (R135). -/
  | sinit
  /-- 0x04 BCDENC: frequency to five packed-decimal bytes (R151). -/
  | bcdenc
  /-- 0x05 BCDDEC: five packed-decimal bytes to frequency (R153). -/
  | bcddec
  /-- 0x06 PAIR2I: byte pair to integer (R155). -/
  | pair2i
  /-- 0x07 INTERP: piecewise-linear interpolation (R157). -/
  | interp
  /-- 0x08 RESCALE: affine range rescale (R161). -/
  | rescale
  /-- 0x09 PRELUT: link speed to wake repeat count (R180). -/
  | prelut
  /-- 0x0A FENC: build a frame into TXBUF (R182). -/
  | fenc
  /-- 0x0B FDEC: expose the positional fields of RXBUF (R185). -/
  | fdec
  /-- 0x0C XCHG: command exchange (R200). -/
  | xchg
  /-- 0xFE on the wire: C_PRE / C_MARK, "never recognised on receive" (R103). -/
  | cPreMark
  /-- 0xFD on the wire: C_TERM, recognised in any position of the byte stream (R103, R73). -/
  | cTerm
  /-- 0xFB on the wire: C_OK, recognised nowhere (R103, R112). -/
  | cOk
  /-- 0xFA on the wire: C_NG, recognised at classification, at index n-2 of a matching candidate (R103, R215). -/
  | cNg
deriving DecidableEq, Repr

/-- Which space a row belongs to. -/
def Instr.space : Instr → Space
  | .addrvT | .addrvN | .sinit | .bcdenc | .bcddec | .pair2i | .interp | .rescale
  | .prelut | .fenc | .fdec | .xchg => .command
  | .cPreMark | .cTerm | .cOk | .cNg => .wire

end Sys2Proof
end

