-- ==== Sys2Proof/Machine/State.lean ====
section
/-! DEFINITION. The machine's state as plain data, its inputs, its stops, and the state after reset.  The block's own
state is that of R20; what a step reads from outside the block (the host's accesses, the Transport's pins and the bytes
it holds, the link-speed pins) stands beside it in `Env`. -/

namespace Sys2Proof.Machine

open Sys2Proof

/-! ### Inputs -/

/-- One host access (R61, R62): one strobe, one register number, one whole register. -/
inductive HostAccess where
  | write (number : Nat) (data : HostWord)
  | read (number : Nat)
deriving DecidableEq, Repr

/-- The Transport's input pins as sampled at one engine step (R69).  `rx_data` is the byte at the head of
`Env.rxQueue`; the pin `rx_valid` says whether the Transport offers it now. -/
structure TransportPins where
  /-- tx_ready -/
  txReady : Bool
  /-- tx_err -/
  txErr : Bool
  /-- rx_valid -/
  rxValid : Bool
  /-- rx_timeout -/
  rxTimeout : Bool
  /-- rx_err -/
  rxErr : Bool
deriving DecidableEq, Repr

/-- A Transport that presents nothing. -/
def TransportPins.silent : TransportPins :=
  { txReady := false, txErr := false, rxValid := false, rxTimeout := false, rxErr := false }

/-- Whose turn a step is (D1: "a host register access, a CMD write with the whole of a non-XCHG operation, or one XCHG
transition"), with what that agent does. -/
inductive Turn where
  /-- the engine takes one step with the Transport's pins as given -/
  | edge (pins : TransportPins)
  /-- the host performs one access -/
  | host (access : HostAccess)
  /-- a byte reaches the Transport's receive side, which must keep it in arrival order (R71) -/
  | arrive (b : Byte)
  /-- the input pins tp_baud change to this value (R32, R78) -/
  | baud (value : BitVec 32)
  /-- `rst` is 1 at a clock edge (R270) -/
  | reset
deriving DecidableEq, Repr

/-- The events the engine waits for or takes (R69, R221). -/
inductive EngineEvent where
  | txAccept
  | txError
  | rxByte (b : Byte)
  | rxTimeout
  | rxError
  /-- CLASSIFY "takes no event: it is a single step of the engine" (R221) -/
  | classification
deriving DecidableEq, Repr

/-! ### The block's state -/

/-- The sequencing state of XCHG (R24). -/
inductive Fsm where
  | idle
  | write
  | read
  | classify
deriving DecidableEq, Repr

/-- The eight failure kinds (R240). -/
inductive FailureKind where
  | invalidAddress
  | invalidOpcode
  | invalidArgument
  | encodeError
  | decodeError
  | commandRejected
  | commandTimeout
  | ioError
deriving DecidableEq, Repr

/-- Sequencing state (R24, R25). -/
structure Seq where
  /-- fsm -/
  fsm : Fsm
  /-- ATTEMPTS, register 0x07 -/
  attempts : BitVec 8
  /-- tx_idx: index of the next byte of TXBUF to hand to the Transport -/
  txIdx : BitVec 16
deriving DecidableEq, Repr

/-- The flags of STATUS (R26) and ERR_INFO (R27).  STATUS.FSM mirrors `Seq.fsm` and is not stored twice. -/
structure Flags where
  /-- STATUS[0] BUSY -/
  busy : Bool
  /-- STATUS[1] DONE -/
  done : Bool
  /-- STATUS[2] ERR -/
  err : Bool
  /-- STATUS[3] SVALID -/
  svalid : Bool
  /-- STATUS[7:4] ERR_CODE -/
  errCode : BitVec 4
  /-- STATUS[8] DROPPED -/
  dropped : Bool
  /-- STATUS[9] RPL_SRC_OK -/
  rplSrcOk : Bool
  /-- ERR_INFO, register 0x02 -/
  errInfo : Byte
deriving DecidableEq, Repr

/-- The Session registers (R30); SVALID is `Flags.svalid`. -/
structure Session where
  /-- S_CTRL, register 0x03 -/
  ctrl : Byte
  /-- S_XCVR, register 0x04 -/
  xcvr : Byte
  /-- S_MAXATT, register 0x05 -/
  maxAtt : BitVec 8
deriving DecidableEq, Repr

/-- The operand and result registers (R22), in the order of their numbers 0x08 to 0x20. -/
structure Regs where
  txt0Len : BitVec 8
  txt1Len : BitVec 8
  num0 : BitVec 16
  attIn : BitVec 8
  freqIn : BitVec 64
  xIn : BitVec 32
  oldMin : BitVec 32
  oldMax : BitVec 32
  newMin : BitVec 32
  newMax : BitVec 32
  npoints : BitVec 8
  res : BitVec 66
  resRem : BitVec 33
  resDen : BitVec 33
  res8 : Byte
  fdst : Byte
  fsrc : Byte
  opcLen : BitVec 3
  payLen : BitVec 16
  preCnt : BitVec 8
  txLen : BitVec 16
  rxLen : BitVec 16
  rplDst : Byte
  rplSrc : Byte
  rplSt : Byte
deriving DecidableEq, Repr

/-- Byte memory: the byte arrays and the two frame buffers, keyed by host register number (R33, R61, R63, R64). -/
abbrev Memory := List Host.Cell

/-- The breakpoint table: PT_RAW and PT_VAL, keyed by host register number (R34, R61). -/
abbrev PointTable := List (Nat × BitVec 32)

/-- Everything outside the block that a step reads or that the block drives (R10, R36, R37): no part of the block's
own state. -/
structure Env where
  /-- the input pins tp_baud (R32, R69) -/
  tpBaud : BitVec 32
  /-- received bytes the Transport holds and the block has not consumed, oldest first (R37, R71) -/
  rxQueue : List Byte
  /-- the turns to come, next first -/
  schedule : List Turn
  /-- the turns that come over and over once the schedule is empty: a supply that never ends (R220, R285).  When both
  are empty the engine steps with a silent Transport for ever -/
  cycle : List Turn
  /-- every byte the Transport has accepted from the block, oldest first (R70: "bytes already accepted stay sent") -/
  wireOut : List Byte
  /-- h_rdata as the last host read left it (R62) -/
  hRdata : HostWord
  /-- how many free values host reads have taken (the argument of `Config.freeRead`) -/
  freeCount : Nat
deriving DecidableEq, Repr

/-- The machine: the block (R20), its configuration (R4) and its environment (R37). -/
structure State where
  /-- the open parameters; no step writes them (R20: "configuration") -/
  params : Config.Params
  seq : Seq
  flags : Flags
  session : Session
  regs : Regs
  mem : Memory
  points : PointTable
  env : Env
  /-- the MODEL's own bookkeeping for R23: the register numbers written since reset, rising, no repeats -/
  written : List Nat
deriving DecidableEq, Repr

/-! ### Stops -/

/-- Why the machine stops.  No rule of the spec stops the block: each of its eight failures is a completion (R250). -/
inductive Fault where
  /-- Raised by a host access whose register number is not in 0x0000..0x3FFF: the pins `h_addr[13:0]` cannot carry it
  and no such address exists (R60, R62).  SAFE: the hardware never sees such an access. -/
  | registerOutsideSpace (number : Nat)
deriving DecidableEq, Repr

/-- Why the machine gives an instruction no meaning. -/
inductive Refusal where
  /-- Raised by an arm of `exec` that has no meaning yet; no arm is left so.  SAFE: nothing is claimed of it. -/
  | notModelled (mnemonic : String)
deriving DecidableEq, Repr

/-- The outcome of one step. -/
abbrev Result := Host.Outcome State Fault Refusal

/-! ### Reset -/

/-- The sequencing state after reset (R270). -/
def Seq.reset : Seq := { fsm := .idle, attempts := 0#8, txIdx := 0#16 }

/-- STATUS and ERR_INFO after reset: all fields 0 (R270). -/
def Flags.reset : Flags :=
  { busy := false, done := false, err := false, svalid := false, errCode := 0#4, dropped := false,
    rplSrcOk := false, errInfo := 0#8 }

/-- The Session registers after reset: the spec gives no value (R270, R30); 0 is a DESIGN CHOICE, unsafe
(notes/assumptions/1.md). -/
def Session.reset : Session := { ctrl := 0#8, xcvr := 0#8, maxAtt := 0#8 }

/-- The operand and result registers after reset.  R270 states 0 for TXT0_LEN, TXT1_LEN, NPOINTS, OPC_LEN, PAY_LEN,
PRE_CNT, TXLEN and RXLEN; for the others it states none, and 0 is a DESIGN CHOICE, unsafe (notes/assumptions/1.md). -/
def Regs.reset : Regs :=
  { txt0Len := 0#8, txt1Len := 0#8, num0 := 0#16, attIn := 0#8, freqIn := 0#64, xIn := 0#32, oldMin := 0#32,
    oldMax := 0#32, newMin := 0#32, newMax := 0#32, npoints := 0#8, res := 0#66, resRem := 0#33, resDen := 0#33,
    res8 := 0#8, fdst := 0#8, fsrc := 0#8, opcLen := 0#3, payLen := 0#16, preCnt := 0#8, txLen := 0#16,
    rxLen := 0#16, rplDst := 0#8, rplSrc := 0#8, rplSt := 0#8 }

/-- The environment of `State.reset`: nothing held, nothing scheduled, nothing sent, tp_baud at 0
(notes/assumptions/5.md, notes/assumptions/6.md). -/
def Env.reset : Env :=
  { tpBaud := 0#32, rxQueue := [], schedule := [], cycle := [], wireOut := [], hRdata := 0#66, freeCount := 0 }

/-- The machine right after reset (R270), with the parameters of the spec's test vectors (R4). -/
def State.reset : State :=
  { params := .vectors, seq := .reset, flags := .reset, session := .reset, regs := .reset, mem := [], points := [],
    env := .reset, written := [] }

end Sys2Proof.Machine
end

