-- ==== Sys2Proof/Machine/Flags.lean ====
section
/-! DEFINITION. STATUS as the word the host reads (R26), the failure codes (R240), and the output pins computed from
state (R69, R246). -/

namespace Sys2Proof.Machine

open Sys2Proof

/-- The code of a failure kind in STATUS.ERR_CODE (R240). -/
def FailureKind.code : FailureKind → BitVec 4
  | .invalidAddress => 1#4
  | .invalidOpcode => 2#4
  | .invalidArgument => 3#4
  | .encodeError => 4#4
  | .decodeError => 5#4
  | .commandRejected => 6#4
  | .commandTimeout => 7#4
  | .ioError => 8#4

/-- The values of fsm (R24). -/
def Fsm.code : Fsm → BitVec 2
  | .idle => 0#2
  | .write => 1#2
  | .read => 2#2
  | .classify => 3#2

/-- STATUS (R26): bit 0 BUSY, 1 DONE, 2 ERR, 3 SVALID, 7:4 ERR_CODE, 8 DROPPED, 9 RPL_SRC_OK, 11:10 FSM, 15:12 read
as 0 (U14). -/
def statusWord (s : State) : BitVec 16 :=
  0#4 ++ s.seq.fsm.code ++ BitVec.ofBool s.flags.rplSrcOk ++ BitVec.ofBool s.flags.dropped ++ s.flags.errCode ++
    BitVec.ofBool s.flags.svalid ++ BitVec.ofBool s.flags.err ++ BitVec.ofBool s.flags.done ++
    BitVec.ofBool s.flags.busy

/-- The output pin `done` copies STATUS.DONE (R246). -/
def donePin (s : State) : Bool := s.flags.done

/-- The output pin `err` copies STATUS.ERR (R246). -/
def errPin (s : State) : Bool := s.flags.err

/-- tx_valid: "1 exactly while fsm = WRITE and tx_idx < TXLEN" (R69). -/
def txValid (s : State) : Bool := s.seq.fsm == .write && decide (s.seq.txIdx.toNat < s.regs.txLen.toNat)

/-- rx_ready: "1 exactly while fsm = READ" (R69). -/
def rxReady (s : State) : Bool := s.seq.fsm == .read

/-- rd_active: "a read is in progress; equal to rx_ready" (R69). -/
def rdActive (s : State) : Bool := rxReady s

end Sys2Proof.Machine
end

