-- ==== Sys2Proof/Machine/Ops.lean ====
section
/-! DEFINITION. The named operations every meaning is written over: the byte memory and the breakpoint table, the
acceptance of a command (R80), completion in failure and in success (R250, R251: "the analogue of trap entry"; there is
no return operation, R253), the refused host write (R81), and the result registers. -/

namespace Sys2Proof.Machine

open Sys2Proof

/-! ### Memory: cells keyed by host register number, one canonical form -/

/-- The element at `a`.  An unlisted element reads as 0: the spec gives array elements no value at reset (R270); this
is a DESIGN CHOICE, unsafe (notes/assumptions/2.md). -/
def cellRead {w : Nat} (m : List (Nat × BitVec w)) (a : Nat) : BitVec w :=
  match m with
  | [] => 0#w
  | (k, x) :: rest => if k = a then x else cellRead rest a

/-- The cells with element `a` set to `v`; writing what an unlisted element reads as removes the entry. -/
def cellWrite {w : Nat} (m : List (Nat × BitVec w)) (a : Nat) (v : BitVec w) : List (Nat × BitVec w) :=
  match m with
  | [] => if v = 0#w then [] else [(a, v)]
  | (k, x) :: rest =>
    if k < a then (k, x) :: cellWrite rest a v
    else if k = a then (if v = 0#w then rest else (a, v) :: rest)
    else if v = 0#w then (k, x) :: rest
    else (a, v) :: (k, x) :: rest

/-- Elements `a`, `a + 1`, ... set to the values listed. -/
def cellWriteSeq {w : Nat} (m : List (Nat × BitVec w)) (a : Nat) (vs : List (BitVec w)) : List (Nat × BitVec w) :=
  match vs with
  | [] => m
  | v :: rest => cellWriteSeq (cellWrite m a v) (a + 1) rest

/-- Elements `a`, ..., `a + n - 1` in order. -/
def cellReadSeq {w : Nat} (m : List (Nat × BitVec w)) (a n : Nat) : List (BitVec w) :=
  (List.range n).map fun i => cellRead m (a + i)

/-- The canonical form: addresses strictly rising, no entry equal to what an unlisted address reads as. -/
def cellsWf {w : Nat} (m : List (Nat × BitVec w)) : Bool :=
  match m with
  | [] => true
  | [(_, x)] => x != 0#w
  | (k, x) :: (k', x') :: rest => decide (k < k') && x != 0#w && cellsWf ((k', x') :: rest)

/-- The canonical form of the byte memory. -/
def Memory.wf (m : Memory) : Bool := cellsWf m

/-- The canonical form of the breakpoint table. -/
def PointTable.wf (m : PointTable) : Bool := cellsWf m

/-! ### Where the arrays stand in the host register space (R33, R34, R61) -/

def baseTxt0 : Nat := 0x40
def baseTxt1 : Nat := 0x44
def baseBcd : Nat := 0x48
def basePair : Nat := 0x50
def baseOpc : Nat := 0x54
def basePay : Nat := 0x100
def basePtRaw : Nat := 0x1000
def basePtVal : Nat := 0x1400
def baseTxbuf : Nat := 0x2000
def baseRxbuf : Nat := 0x3000

/-- The byte at a host register number of a byte array or buffer. -/
def State.byteAt (s : State) (n : Nat) : Byte := cellRead s.mem n

/-! ### The environment -/

/-- The state with another environment; nothing of the block changes. -/
def State.withEnv (s : State) (e : Env) : State := { s with env := e }

/-- The state with `rest` left of the schedule. -/
def State.withSchedule (s : State) (rest : List Turn) : State := s.withEnv { s.env with schedule := rest }

/-- The state with `queue` held by the Transport. -/
def State.withQueue (s : State) (queue : List Byte) : State := s.withEnv { s.env with rxQueue := queue }

/-! ### What has been written since reset (R23; the model's own bookkeeping) -/

/-- A rising list of numbers with `n` in it. -/
def insertNumber (n : Nat) (ns : List Nat) : List Nat :=
  match ns with
  | [] => [n]
  | k :: rest => if k < n then k :: insertNumber n rest else if k = n then k :: rest else n :: k :: rest

/-- Notes that the registers numbered hold a value from now on. -/
def markWritten (ns : List Nat) (s : State) : State :=
  { s with written := ns.foldl (fun acc n => insertNumber n acc) s.written }

/-! ### Accepting and completing an operation -/

/-- An accepted CMD write: DONE, ERR, ERR_CODE and ERR_INFO are cleared and BUSY set, and nothing else (R80). -/
def acceptCommand (s : State) : State :=
  { s with flags := { s.flags with done := false, err := false, errCode := 0#4, errInfo := 0#8, busy := true } }

/-- Completion in failure, `raise K(info)`: one indivisible step (R250). -/
def raiseFailure (kind : FailureKind) (info : Byte) (s : State) : State :=
  { s with
    seq := { s.seq with fsm := .idle }
    flags := { s.flags with errCode := kind.code, errInfo := info, err := true, done := true, busy := false } }

/-- Completion in success, `done` (R251). -/
def completeOk (s : State) : State :=
  { s with
    seq := { s.seq with fsm := .idle }
    flags := { s.flags with errCode := 0#4, errInfo := 0#8, err := false, done := true, busy := false } }

/-- A host write while BUSY = 1: ignored, DROPPED set (R81). -/
def dropWrite (s : State) : State :=
  { s with flags := { s.flags with dropped := true } }

/-- A host write of a command word to CMD: while BUSY = 1 it is dropped (R81); else it is accepted and the operation
runs from the state the acceptance leaves (R80).  Every operation but XCHG is "one indivisible state change" (R9). -/
def onCommand (operation : State → State) (s : State) : Result :=
  if s.flags.busy then .next (dropWrite s) else .next (operation (acceptCommand s))

/-! ### Result registers -/

/-- RES8 <- b (R22). -/
def setRes8 (b : Byte) (s : State) : State :=
  markWritten [0x16] { s with regs := { s.regs with res8 := b } }

/-- (RES, RES_REM, RES_DEN) <- (q, r, d) (R22, R159). -/
def setResult (q r d : Int) (s : State) : State :=
  markWritten [0x13, 0x14, 0x15]
    { s with regs := { s.regs with res := BitVec.ofInt 66 q, resRem := BitVec.ofInt 33 r, resDen := BitVec.ofInt 33 d } }

end Sys2Proof.Machine
end

