-- ==== Sys2Proof/Machine/Operands.lean ====
section
/-! DEFINITION. Operand forms: nibbles and hexadecimal characters (R6, R130), the text, packed-decimal, opcode, payload
and breakpoint operands read from the operand registers (R108), and the host register map with one access to it
(R61, R62, R79 to R81). -/

namespace Sys2Proof.Machine

open Sys2Proof

/-! ### Parts of a byte -/

/-- hi4(b) = b[7:4] (R6). -/
def hi4 (b : Byte) : Nat := (b.extractLsb' 4 4).toNat

/-- lo4(b) = b[3:0] (R6). -/
def lo4 (b : Byte) : Nat := (b.extractLsb' 0 4).toNat

/-- HexVal(c), the value of a hexadecimal digit character, none where it is undefined (R130). -/
def hexVal (c : Byte) : Option Nat :=
  if 0x30 ≤ c.toNat ∧ c.toNat ≤ 0x39 then some (c.toNat - 0x30)
  else if 0x41 ≤ c.toNat ∧ c.toNat ≤ 0x46 then some (c.toNat - 0x41 + 10)
  else if 0x61 ≤ c.toNat ∧ c.toNat ≤ 0x66 then some (c.toNat - 0x61 + 10)
  else none

/-- ParseAddr(n, t): the text '0', 'x' and two hexadecimal digits, of length exactly 4 (R131).  When n is not 4 no
character is looked at. -/
def parseAddr (n : BitVec 8) (t : List Byte) : Option Byte :=
  if n.toNat = 4 then
    match t with
    | [t0, t1, t2, t3] =>
      if t0 = 0x30#8 ∧ t1 = 0x78#8 then
        match hexVal t2, hexVal t3 with
        | some h, some l => some (BitVec.ofNat 8 (16 * h + l))
        | _, _ => none
      else none
    | _ => none
  else none

/-! ### Operands of the operations (R108) -/

/-- Text operand 0 parsed as an address. -/
def textAddr0 (s : State) : Option Byte := parseAddr s.regs.txt0Len (cellReadSeq s.mem baseTxt0 4)

/-- Text operand 1 parsed as an address. -/
def textAddr1 (s : State) : Option Byte := parseAddr s.regs.txt1Len (cellReadSeq s.mem baseTxt1 4)

/-- BCD[0..4]. -/
def bcdField (s : State) : List Byte := cellReadSeq s.mem baseBcd 5

/-- OPC[0..OPC_LEN-1]. -/
def opcodeBytes (s : State) : List Byte := cellReadSeq s.mem baseOpc s.regs.opcLen.toNat

/-- PAY[0..PAY_LEN-1]. -/
def payloadBytes (s : State) : List Byte := cellReadSeq s.mem basePay s.regs.payLen.toNat

/-- The breakpoints (PT_RAW[i], PT_VAL[i]) for 0 <= i < NPOINTS, as signed numbers (R34). -/
def breakpoints (s : State) : List (Int × Int) :=
  (List.range s.regs.npoints.toNat).map fun i =>
    ((cellRead s.points (basePtRaw + i)).toInt, (cellRead s.points (basePtVal + i)).toInt)

/-- TXBUF[0..TXLEN-1], the outbound frame (R63). -/
def txFrame (s : State) : List Byte := cellReadSeq s.mem baseTxbuf s.regs.txLen.toNat

/-- RXBUF[0..RXLEN-1], the candidate (R64). -/
def candidate (s : State) : List Byte := cellReadSeq s.mem baseRxbuf s.regs.rxLen.toNat

/-! ### The host register map (R61) -/

/-- What a host register number names. -/
inductive HostReg where
  | cmd | status | errInfo | sCtrl | sXcvr | sMaxatt | tpBaud | attempts
  | txt0Len | txt1Len | num0 | attIn | freqIn | xIn | oldMin | oldMax | newMin | newMax | npoints
  | res | resRem | resDen | res8 | fdst | fsrc | opcLen | payLen | preCnt | txLen | rxLen
  | rplDst | rplSrc | rplSt
  /-- an element of TXT0, TXT1, BCD, PAIR, OPC or PAY (R33) -/
  | operandByte
  /-- an element of PT_RAW or PT_VAL (R34) -/
  | point
  /-- an element of the TXBUF window, host read-only (R63) -/
  | txByte
  /-- an element of the RXBUF window (R64) -/
  | rxByte
  /-- a number not in the table (R61) -/
  | unmapped
deriving DecidableEq, Repr

/-- The registers 0x0000..0x0020 (R22, R24, R26, R27, R29, R30, R32). -/
def scalarRegs : List HostReg :=
  [.cmd, .status, .errInfo, .sCtrl, .sXcvr, .sMaxatt, .tpBaud, .attempts,
   .txt0Len, .txt1Len, .num0, .attIn, .freqIn, .xIn, .oldMin, .oldMax, .newMin, .newMax, .npoints,
   .res, .resRem, .resDen, .res8, .fdst, .fsrc, .opcLen, .payLen, .preCnt, .txLen, .rxLen,
   .rplDst, .rplSrc, .rplSt]

/-- Is `n` one of the `count` numbers from `base` on? -/
def inArray (n base count : Nat) : Bool := decide (base ≤ n) && decide (n < base + count)

/-- The map of the host register space (R61), with the element counts of R33 and R34. -/
def hostReg (p : Config.Params) (n : Nat) : HostReg :=
  if n < 0x21 then scalarRegs.getD n .unmapped
  else if inArray n baseTxt0 4 || inArray n baseTxt1 4 || inArray n baseBcd 5 || inArray n basePair 2 ||
      inArray n baseOpc 4 || inArray n basePay p.payMax then .operandByte
  else if inArray n basePtRaw p.maxPoints || inArray n basePtVal p.maxPoints then .point
  else if inArray n baseTxbuf p.txMax then .txByte
  else if inArray n baseRxbuf p.rxMax then .rxByte
  else .unmapped

/-- The size of the host register space: register numbers 0x0000..0x3FFF (R60). -/
def registerSpace : Nat := 0x4000

/-! ### Host writes -/

/-- A host write that BUSY = 0 lets through, to a register other than CMD: the low bits of the data are stored
("the upper bits are ignored", R62); a read-only register, a window element the host can never write and an unmapped
number ignore it (R22, R61, R63). -/
def storeReg (n : Nat) (v : HostWord) (s : State) : State :=
  let r := s.regs
  match hostReg s.params n with
  | .txt0Len => markWritten [n] { s with regs := { r with txt0Len := v.setWidth 8 } }
  | .txt1Len => markWritten [n] { s with regs := { r with txt1Len := v.setWidth 8 } }
  | .num0 => markWritten [n] { s with regs := { r with num0 := v.setWidth 16 } }
  | .attIn => markWritten [n] { s with regs := { r with attIn := v.setWidth 8 } }
  | .freqIn => markWritten [n] { s with regs := { r with freqIn := v.setWidth 64 } }
  | .xIn => markWritten [n] { s with regs := { r with xIn := v.setWidth 32 } }
  | .oldMin => markWritten [n] { s with regs := { r with oldMin := v.setWidth 32 } }
  | .oldMax => markWritten [n] { s with regs := { r with oldMax := v.setWidth 32 } }
  | .newMin => markWritten [n] { s with regs := { r with newMin := v.setWidth 32 } }
  | .newMax => markWritten [n] { s with regs := { r with newMax := v.setWidth 32 } }
  | .npoints => markWritten [n] { s with regs := { r with npoints := v.setWidth 8 } }
  | .fdst => markWritten [n] { s with regs := { r with fdst := v.setWidth 8 } }
  | .fsrc => markWritten [n] { s with regs := { r with fsrc := v.setWidth 8 } }
  | .opcLen => markWritten [n] { s with regs := { r with opcLen := v.setWidth 3 } }
  | .payLen => markWritten [n] { s with regs := { r with payLen := v.setWidth 16 } }
  | .preCnt => markWritten [n] { s with regs := { r with preCnt := v.setWidth 8 } }
  | .rxLen => markWritten [n] { s with regs := { r with rxLen := v.setWidth 16 } }
  | .operandByte => markWritten [n] { s with mem := cellWrite s.mem n (v.setWidth 8) }
  | .rxByte => markWritten [n] { s with mem := cellWrite s.mem n (v.setWidth 8) }
  | .point => markWritten [n] { s with points := cellWrite s.points n (v.setWidth 32) }
  | .cmd | .status | .errInfo | .sCtrl | .sXcvr | .sMaxatt | .tpBaud | .attempts | .res | .resRem | .resDen
  | .res8 | .txLen | .rplDst | .rplSrc | .rplSt | .txByte | .unmapped => s

/-- A host write to a register other than CMD: with BUSY = 1 a write to any register is ignored and sets DROPPED
(R81; of an unmapped number too, by D21: "every host write"), else an unmapped number ignores it (R61). -/
def hostWrite (n : Nat) (v : HostWord) (s : State) : State :=
  if s.flags.busy then dropWrite s else storeReg n v s

/-! ### Host reads -/

/-- What a host read of register number `n` delivers while BUSY = 0: unsigned registers zero-extended, signed ones
sign-extended (R62), CMD and unmapped numbers 0 (R29, R61); none where the element holds no value (R63, R64). -/
def loadReg (n : Nat) (s : State) : Option HostWord :=
  let r := s.regs
  match hostReg s.params n with
  | .cmd => some 0#66
  | .status => some ((statusWord s).setWidth 66)
  | .errInfo => some (s.flags.errInfo.setWidth 66)
  | .sCtrl => some (s.session.ctrl.setWidth 66)
  | .sXcvr => some (s.session.xcvr.setWidth 66)
  | .sMaxatt => some (s.session.maxAtt.setWidth 66)
  | .tpBaud => some (s.env.tpBaud.setWidth 66)
  | .attempts => some (s.seq.attempts.setWidth 66)
  | .txt0Len => some (r.txt0Len.setWidth 66)
  | .txt1Len => some (r.txt1Len.setWidth 66)
  | .num0 => some (r.num0.setWidth 66)
  | .attIn => some (r.attIn.setWidth 66)
  | .freqIn => some (r.freqIn.signExtend 66)
  | .xIn => some (r.xIn.signExtend 66)
  | .oldMin => some (r.oldMin.signExtend 66)
  | .oldMax => some (r.oldMax.signExtend 66)
  | .newMin => some (r.newMin.signExtend 66)
  | .newMax => some (r.newMax.signExtend 66)
  | .npoints => some (r.npoints.setWidth 66)
  | .res => some r.res
  | .resRem => some (r.resRem.setWidth 66)
  | .resDen => some (r.resDen.setWidth 66)
  | .res8 => some (r.res8.setWidth 66)
  | .fdst => some (r.fdst.setWidth 66)
  | .fsrc => some (r.fsrc.setWidth 66)
  | .opcLen => some (r.opcLen.setWidth 66)
  | .payLen => some (r.payLen.setWidth 66)
  | .preCnt => some (r.preCnt.setWidth 66)
  | .txLen => some (r.txLen.setWidth 66)
  | .rxLen => some (r.rxLen.setWidth 66)
  | .rplDst => some (r.rplDst.setWidth 66)
  | .rplSrc => some (r.rplSrc.setWidth 66)
  | .rplSt => some (r.rplSt.setWidth 66)
  | .operandByte => some ((s.byteAt n).setWidth 66)
  | .point => some ((cellRead s.points n).signExtend 66)
  | .txByte => if n - baseTxbuf < r.txLen.toNat then some ((s.byteAt n).setWidth 66) else none
  | .rxByte => if n - baseRxbuf < r.rxLen.toNat then some ((s.byteAt n).setWidth 66) else none
  | .unmapped => some 0#66

/-- While BUSY = 1 a read of STATUS, ERR_INFO, ATTEMPTS or TP_BAUD returns the current value; a read of anything else
returns an unspecified value (R81). -/
def readableWhileBusy : HostReg → Bool
  | .status | .errInfo | .attempts | .tpBaud => true
  | _ => false

/-- The value a host read delivers, none where the spec says "any value" or that there is no value. -/
def hostReadValue (n : Nat) (s : State) : Option HostWord :=
  if s.flags.busy && !readableWhileBusy (hostReg s.params n) then none else loadReg n s

/-- A host read: the value goes to h_rdata, a free value where none is specified; "No read has a side effect" (R79). -/
def hostRead (n : Nat) (s : State) : State :=
  match hostReadValue n s with
  | some v => { s with env := { s.env with hRdata := v } }
  | none =>
    { s with env := { s.env with hRdata := Config.freeRead s.env.freeCount, freeCount := s.env.freeCount + 1 } }

end Sys2Proof.Machine
end

