-- ==== Sys2Proof/Machine/AddressValidator.lean ====
section
/-! DEFINITION. The address validator and session construction: ADDRV_T, ADDRV_N, SINIT (spec/40_address_validator.md). -/

namespace Sys2Proof.Machine

open Sys2Proof

/-- ADDRV_T from the accepted state (R132). -/
def opAddrvT (s : State) : State :=
  match textAddr0 s with
  | none => raiseFailure .invalidAddress 0x01#8 s
  | some a => completeOk (setRes8 a s)

/-- ADDRV_T: validate a textual address (R132). -/
def execAddrvT (s : State) : Result := onCommand opAddrvT s

/-- ADDRV_N from the accepted state (R133). -/
def opAddrvN (s : State) : State :=
  if s.regs.num0.toNat > 0xFF then raiseFailure .invalidAddress 0x01#8 s
  else completeOk (setRes8 (s.regs.num0.setWidth 8) s)

/-- ADDRV_N: validate a numeric address (R133). -/
def execAddrvN (s : State) : Result := onCommand opAddrvN s

/-- ERR_INFO of a SINIT whose address texts are not both valid: bit 0 the controller text, bit 1 the transceiver text
(R135, R136). -/
def addrFaultInfo (c x : Option Byte) : Byte :=
  (if c.isNone then 1#8 else 0#8) + (if x.isNone then 2#8 else 0#8)

/-- SINIT from the accepted state (R135 to R138): an existing Session first, then both addresses, then the budget. -/
def opSinit (s : State) : State :=
  if s.flags.svalid then raiseFailure .invalidArgument 0x09#8 s
  else
    match textAddr0 s, textAddr1 s with
    | some c, some x =>
      if s.regs.attIn = 0#8 then raiseFailure .invalidArgument 0x06#8 s
      else
        completeOk (markWritten [0x03, 0x04, 0x05]
          { s with
            session := { ctrl := c, xcvr := x, maxAtt := s.regs.attIn }
            flags := { s.flags with svalid := true } })
    | c, x => raiseFailure .invalidAddress (addrFaultInfo c x) s

/-- SINIT: construct the Session (R135). -/
def execSinit (s : State) : Result := onCommand opSinit s

end Sys2Proof.Machine
end

