-- ==== Sys2Proof/Machine/NumericCodecs.lean ====
section
/-! DEFINITION. The numeric codecs: BCDENC, BCDDEC, PAIR2I, INTERP, RESCALE (spec/41_numeric_codecs.md).  Arithmetic is
on mathematical integers (R7, R163); every divisor is positive, where `/` and `%` on `Int` are the floor division and
remainder of R7 (R164). -/

namespace Sys2Proof.Machine

open Sys2Proof

/-! ### Packed decimal -/

/-- BcdByte(g) for 0 <= g <= 99 (R152). -/
def bcdByte (g : Nat) : Byte := BitVec.ofNat 8 (16 * (g / 10) + g % 10)

/-- The five decimal groups of a frequency, least significant first (R151). -/
def bcdEncode (f : Nat) : List Byte :=
  (List.range 5).map fun i => bcdByte (f / 100 ^ i % 100)

/-- A byte with a nibble above 9 (R153). -/
def badNibble (b : Byte) : Bool := decide (hi4 b > 9) || decide (lo4 b > 9)

/-- 10 * hi4(b) + lo4(b): two packed-decimal digits, with a nibble above 9 taken literally (R153, R155, R156). -/
def packedPair (b : Byte) : Nat := 10 * hi4 b + lo4 b

/-- The sum over i of the packed pair of byte i times 100^i (R153). -/
def bcdDecode (bytes : List Byte) : Nat :=
  match bytes with
  | [] => 0
  | b :: rest => packedPair b + 100 * bcdDecode rest

/-- BCDENC from the accepted state (R151). -/
def opBcdenc (s : State) : State :=
  let f := s.regs.freqIn.toInt
  if f < 0 then raiseFailure .encodeError 0x01#8 s
  else if f > Config.freqMax then raiseFailure .encodeError 0x02#8 s
  else
    completeOk (markWritten [0x48, 0x49, 0x4A, 0x4B, 0x4C]
      { s with mem := cellWriteSeq s.mem baseBcd (bcdEncode f.toNat) })

/-- BCDENC: frequency to five packed-decimal bytes (R151). -/
def execBcdenc (s : State) : Result := onCommand opBcdenc s

/-- BCDDEC from the accepted state: the lowest index with a bad nibble is reported, before any result is written
(R153). -/
def opBcddec (s : State) : State :=
  match (bcdField s).findIdx? badNibble with
  | some i => raiseFailure .decodeError (BitVec.ofNat 8 i) s
  | none => completeOk (setResult (bcdDecode (bcdField s)) 0 1 s)

/-- BCDDEC: five packed-decimal bytes to frequency (R153). -/
def execBcddec (s : State) : Result := onCommand opBcddec s

/-! ### Byte pair -/

/-- PAIR2I from the accepted state (R155, R156). -/
def opPair2i (s : State) : State :=
  completeOk (setResult (100 * (s.byteAt basePair).toNat + packedPair (s.byteAt (basePair + 1))) 0 1 s)

/-- PAIR2I: byte pair to integer (R155). -/
def execPair2i (s : State) : Result := onCommand opPair2i s

/-! ### Rational results -/

/-- The delivery of base + n / d, d > 0, as (floor, remainder, denominator), the fraction not reduced (R159). -/
def ratio (base n d : Int) : Int × Int × Int := (base + n / d, n % d, d)

/-- A result delivered to RES, RES_REM and RES_DEN. -/
def deliver (v : Int × Int × Int) (s : State) : State := setResult v.1 v.2.1 v.2.2 s

/-! ### Interpolation -/

/-- PT_RAW strictly increasing (R35, R160). -/
def strictlyRising : List (Int × Int) → Bool
  | [] => true
  | [_] => true
  | p :: q :: rest => decide (p.1 < q.1) && strictlyRising (q :: rest)

/-- The value at `x`, where the breakpoint `p` is the last one passed so far (p.1 <= x) and `rest` are those after it:
the exact match, the segment that holds x, or the clamp above the last breakpoint (R157, R158). -/
def interpolateFrom (p : Int × Int) (rest : List (Int × Int)) (x : Int) : Int × Int × Int :=
  match rest with
  | [] => (p.2, 0, 1)
  | q :: more =>
    if x < q.1 then
      (if x = p.1 then (p.2, 0, 1) else ratio p.2 ((x - p.1) * (q.2 - p.2)) (q.1 - p.1))
    else interpolateFrom q more x

/-- INTERP's value at `x` over a strictly rising, non-empty table (R157). -/
def interpolate (points : List (Int × Int)) (x : Int) : Int × Int × Int :=
  match points with
  | [] => (0, 0, 1)
  | p :: rest => if x ≤ p.1 then (p.2, 0, 1) else interpolateFrom p rest x

/-- INTERP from the accepted state: the three table checks in their order, then the value (R157, R160). -/
def opInterp (s : State) : State :=
  if s.regs.npoints.toNat = 0 then raiseFailure .invalidArgument 0x01#8 s
  else if s.regs.npoints.toNat > s.params.maxPoints then raiseFailure .invalidArgument 0x05#8 s
  else if strictlyRising (breakpoints s) then
    completeOk (deliver (interpolate (breakpoints s) s.regs.xIn.toInt) s)
  else raiseFailure .invalidArgument 0x07#8 s

/-- INTERP: piecewise-linear interpolation (R157). -/
def execInterp (s : State) : Result := onCommand opInterp s

/-! ### Rescale -/

/-- The affine map from (oldMin, oldMax) to (newMin, newMax), the denominator made positive; newMin when the old range
is degenerate (R161, R162). -/
def rescale (x oldMin oldMax newMin newMax : Int) : Int × Int × Int :=
  let d := oldMax - oldMin
  let n := (x - oldMin) * (newMax - newMin)
  if d = 0 then (newMin, 0, 1)
  else if d < 0 then ratio newMin (-n) (-d)
  else ratio newMin n d

/-- RESCALE from the accepted state (R161). -/
def opRescale (s : State) : State :=
  completeOk (deliver (rescale s.regs.xIn.toInt s.regs.oldMin.toInt s.regs.oldMax.toInt s.regs.newMin.toInt
    s.regs.newMax.toInt) s)

/-- RESCALE: affine range rescale (R161). -/
def execRescale (s : State) : Result := onCommand opRescale s

end Sys2Proof.Machine
end

