-- ==== Sys2Proof/Machine/FrameCodec.lean ====
section
/-! DEFINITION. The frame codec: PRELUT, FENC, FDEC and the shared Build and Fields (spec/42_frame_codec.md). -/

namespace Sys2Proof.Machine

open Sys2Proof

/-! ### Wake lookup -/

/-- The repeat count a list of (speed, count) rows gives a link speed, by exact equality (R180). -/
def wakeLookup (rows : List (Nat × Byte)) (baud : Nat) : Byte :=
  match rows with
  | [] => Config.wakeDefault
  | (speed, count) :: rest => if baud = speed then count else wakeLookup rest baud

/-- PRELUT from the accepted state: tp_baud is sampled at this instant (R78, R180). -/
def opPrelut (s : State) : State :=
  completeOk (setRes8 (wakeLookup Config.wakeTable s.env.tpBaud.toNat) s)

/-- PRELUT: link speed to wake repeat count (R180). -/
def execPrelut (s : State) : Result := onCommand opPrelut s

/-! ### Frame encoding -/

/-- FrameEncode(dst, src, opc, pay, p) (R181; byte positions R101). -/
def frameEncode (dst src : Byte) (opc pay : List Byte) (p : Nat) : List Byte :=
  List.replicate p Config.cPre ++ [Config.cMark, Config.cMark, dst, src] ++ opc ++ pay ++ [Config.cTerm]

/-- The length checks made before a frame is built: the opcode length, then the payload length (R182, R201). -/
def lengthFault (s : State) : Option (FailureKind × Byte) :=
  if s.regs.opcLen.toNat < 1 ∨ s.regs.opcLen.toNat > 4 then some (.invalidOpcode, s.regs.opcLen.setWidth 8)
  else if s.regs.payLen.toNat > s.params.payMax then some (.invalidArgument, 0x04#8)
  else none

/-- The frame Build writes, from the operand registers (R183). -/
def builtFrame (dst src : Byte) (s : State) : List Byte :=
  frameEncode dst src (opcodeBytes s) (payloadBytes s) s.regs.preCnt.toNat

/-- Build(dst, src): the frame into TXBUF and its length into TXLEN (R183). -/
def build (dst src : Byte) (s : State) : State :=
  { s with
    mem := cellWriteSeq s.mem baseTxbuf (builtFrame dst src s)
    regs := { s.regs with txLen := BitVec.ofNat 16 (builtFrame dst src s).length } }

/-- FENC from the accepted state (R182). -/
def opFenc (s : State) : State :=
  match lengthFault s with
  | some (k, info) => raiseFailure k info s
  | none => completeOk (build s.regs.fdst s.regs.fsrc s)

/-- FENC: build a frame into TXBUF (R182). -/
def execFenc (s : State) : Result := onCommand opFenc s

/-! ### Frame decoding -/

/-- Fields(c, n) for a candidate of length n >= 3: bytes 2, 3 and n-2 by position; with no byte 3, RPL_SRC_OK is 0 and
RPL_SRC is left unchanged (R187). -/
def setFields (c : List Byte) (s : State) : State :=
  if c.length ≥ 4 then
    markWritten [0x1E, 0x1F, 0x20]
      { s with
        regs := { s.regs with
          rplDst := c.getD 2 0#8, rplSrc := c.getD 3 0#8, rplSt := c.getD (c.length - 2) 0#8 }
        flags := { s.flags with rplSrcOk := true } }
  else
    markWritten [0x1E, 0x20]
      { s with
        regs := { s.regs with rplDst := c.getD 2 0#8, rplSt := c.getD (c.length - 2) 0#8 }
        flags := { s.flags with rplSrcOk := false } }

/-- FDEC from the accepted state (R185, R186). -/
def opFdec (s : State) : State :=
  if s.regs.rxLen.toNat > s.params.rxMax then raiseFailure .invalidArgument 0x0A#8 s
  else if s.regs.rxLen.toNat ≤ 2 then raiseFailure .invalidArgument 0x08#8 s
  else completeOk (setFields (candidate s) s)

/-- FDEC: expose the positional fields of RXBUF (R185). -/
def execFdec (s : State) : Result := onCommand opFdec s

end Sys2Proof.Machine
end

