-- ==== Sys2Proof/Machine/ExchangeEngine.lean ====
section
/-! DEFINITION. The command exchange engine: XCHG's first step, and every later transition of R221
(spec/43_exchange_engine.md), with the receive framing of R72 to R76. -/

namespace Sys2Proof.Machine

open Sys2Proof

/-! ### XCHG at the CMD write -/

/-- XCHG from the accepted state: the pre-I/O checks in their order, then Build with the Session's addresses and the
start of the write (R201 to R203). -/
def opXchg (s : State) : State :=
  if s.flags.svalid then
    match lengthFault s with
    | some (k, info) => raiseFailure k info s
    | none =>
      let b := build s.session.xcvr s.session.ctrl s
      { b with seq := { b.seq with fsm := .write, txIdx := 0#16 } }
  else raiseFailure .invalidArgument 0x02#8 s

/-- XCHG: command exchange (R200), its transition out of IDLE; the rest of its course is `engineStep`. -/
def execXchg (s : State) : Result := onCommand opXchg s

/-! ### The read loop -/

/-- The start of a read: RXLEN <- 0, fsm <- READ (R72, R206). -/
def startRead (s : State) : State :=
  { s with regs := { s.regs with rxLen := 0#16 }, seq := { s.seq with fsm := .read } }

/-- The loop guard ATTEMPTS < S_MAXATT: a new read, or CommandTimeout(ATTEMPTS) with RXLEN not cleared
(R205, R217, R221). -/
def loopGuard (s : State) : State :=
  if s.seq.attempts.toNat < s.session.maxAtt.toNat then startRead s
  else raiseFailure .commandTimeout s.seq.attempts s

/-! ### Writing the frame -/

/-- tx_data, the byte offered to the Transport while tx_valid = 1: TXBUF[tx_idx] (R69, R70). -/
def txData (s : State) : Byte := s.byteAt (baseTxbuf + s.seq.txIdx.toNat)

/-- TxAccept: the byte is the Transport's; after the last one the write has completed, ATTEMPTS <- 0, and the read loop
begins (R70, R203, R204, R221). -/
def txAccept (s : State) : State :=
  let sent := { s with env := { s.env with wireOut := s.env.wireOut ++ [txData s] } }
  if s.seq.txIdx.toNat + 1 < s.regs.txLen.toNat then
    { sent with seq := { sent.seq with txIdx := s.seq.txIdx + 1#16 } }
  else
    loopGuard { sent with seq := { sent.seq with txIdx := s.regs.txLen, attempts := 0#8 } }

/-! ### Receiving a candidate -/

/-- RxByte(b) taken in READ: a full buffer ends the exchange in IoError(0x03) and the byte is lost (R76); else the byte
is appended, and the first C_TERM, in whatever position, ends the read (R73). -/
def takeByte (b : Byte) (s : State) : State :=
  if s.regs.rxLen.toNat < s.params.rxMax then
    let n := baseRxbuf + s.regs.rxLen.toNat
    let t := markWritten [n]
      { s with mem := cellWrite s.mem n b, regs := { s.regs with rxLen := s.regs.rxLen + 1#16 } }
    if b = Config.cTerm then { t with seq := { t.seq with fsm := .classify } } else t
  else raiseFailure .ioError 0x03#8 s

/-! ### Classification -/

/-- The classes of R222. -/
inductive CandidateClass where
  | echo
  | silence
  /-- length 3: foreign traffic, no source byte (R213) -/
  | noSource
  | foreign
  | negative
  | valid
deriving DecidableEq, Repr

/-- Classify(c) for the Session (ctrl, xcvr) and the outbound frame t: the first matching line of R222. -/
def classOf (ctrl xcvr : Byte) (t c : List Byte) : CandidateClass :=
  if c = t then .echo
  else if c.length ≤ 2 then .silence
  else if c.length = 3 then .noSource
  else if c.getD 2 0#8 ≠ ctrl ∨ c.getD 3 0#8 ≠ xcvr then .foreign
  else if c.getD (c.length - 2) 0#8 = Config.cNg then .negative
  else .valid

/-- The class of the candidate in RXBUF. -/
def candidateClass (s : State) : CandidateClass :=
  classOf s.session.ctrl s.session.xcvr (txFrame s) (candidate s)

/-- The CLASSIFY step: one row of R221 for each class (R207 to R217). -/
def classify (s : State) : State :=
  match candidateClass s with
  | .echo => loopGuard s
  | .silence => loopGuard { s with seq := { s.seq with attempts := s.seq.attempts + 1#8 } }
  | .noSource => loopGuard (setFields (candidate s) s)
  | .foreign => loopGuard (setFields (candidate s) s)
  | .negative =>
    let t := setFields (candidate s) s
    raiseFailure .commandRejected t.regs.rplSt t
  | .valid => completeOk (setFields (candidate s) s)

/-! ### The engine's step -/

/-- The event the engine takes at a step, given the Transport's pins: during WRITE TxError before TxAccept, during READ
RxError before RxByte before RxTimeout (R77); an event whose pin means nothing in the present state does not occur
(R69, R221). -/
def edgeEvent (p : TransportPins) (s : State) : Option EngineEvent :=
  match s.seq.fsm with
  | .idle => none
  | .write => if p.txErr then some .txError else if p.txReady && txValid s then some .txAccept else none
  | .read =>
    if p.rxErr then some .rxError
    else
      match p.rxValid, s.env.rxQueue with
      | true, b :: _ => some (.rxByte b)
      | _, _ => if p.rxTimeout then some .rxTimeout else none
  | .classify => some .classification

/-- One transition of R221 out of WRITE, READ or CLASSIFY.  A byte taken leaves the Transport's queue before this. -/
def engineStep (e : EngineEvent) (s : State) : State :=
  match e with
  | .txAccept => txAccept s
  | .txError => raiseFailure .ioError 0x01#8 s
  | .rxByte b => takeByte b s
  | .rxTimeout => { s with seq := { s.seq with fsm := .classify } }
  | .rxError => raiseFailure .ioError 0x02#8 s
  | .classification => classify s

end Sys2Proof.Machine
end

