-- ==== Sys2Proof/Machine/WireBytes.lean ====
section
/-! DEFINITION. The four wire constants of R103 as the block meets them: a byte the Transport offers on rx_data.  Only
C_TERM is recognised on reception (R73); C_PRE / C_MARK is "never recognised on receive", C_OK is recognised nowhere, and
C_NG only later, at classification (R103, R112, R215). -/

namespace Sys2Proof.Machine

open Sys2Proof

/-- The byte `b` offered by the Transport, which still holds `Env.rxQueue` behind it: taken while rx_ready = 1, that is
in READ; otherwise the Transport keeps it, ahead of what it holds (R69, R71, R73). -/
def offerByte (b : Byte) (s : State) : State :=
  if rxReady s then engineStep (.rxByte b) s
  else s.withQueue (b :: s.env.rxQueue)

/-- C_PRE / C_MARK received: an ordinary byte of the candidate (R103, R188). -/
def execCPreMark (s : State) : Result := .next (offerByte Config.cMark s)

/-- C_TERM received: the candidate's last byte, "whatever its position" (R103, R73). -/
def execCTerm (s : State) : Result := .next (offerByte Config.cTerm s)

/-- C_OK received: an ordinary byte of the candidate (R103, R112). -/
def execCOk (s : State) : Result := .next (offerByte Config.cOk s)

/-- C_NG received: an ordinary byte of the candidate, tested only at classification (R103, R215). -/
def execCNg (s : State) : Result := .next (offerByte Config.cNg s)

end Sys2Proof.Machine
end

