-- ==== Sys2Proof/Machine/Dispatch.lean ====
section
/-! DEFINITION. One arm per instruction, each one direct call of its meaning. -/

namespace Sys2Proof.Machine

open Sys2Proof

def exec (i : Instr) (s : State) : Host.Outcome State Fault Refusal :=
  match i with
  | .addrvT => Sys2Proof.Machine.execAddrvT s
  | .addrvN => Sys2Proof.Machine.execAddrvN s
  | .sinit => Sys2Proof.Machine.execSinit s
  | .bcdenc => Sys2Proof.Machine.execBcdenc s
  | .bcddec => Sys2Proof.Machine.execBcddec s
  | .pair2i => Sys2Proof.Machine.execPair2i s
  | .interp => Sys2Proof.Machine.execInterp s
  | .rescale => Sys2Proof.Machine.execRescale s
  | .prelut => Sys2Proof.Machine.execPrelut s
  | .fenc => Sys2Proof.Machine.execFenc s
  | .fdec => Sys2Proof.Machine.execFdec s
  | .xchg => Sys2Proof.Machine.execXchg s
  | .cPreMark => Sys2Proof.Machine.execCPreMark s
  | .cTerm => Sys2Proof.Machine.execCTerm s
  | .cOk => Sys2Proof.Machine.execCOk s
  | .cNg => Sys2Proof.Machine.execCNg s

end Sys2Proof.Machine
end

