-- ==== Sys2Proof/WellFormed.lean ====
section
/-! DEFINITION. What is well formed: a command word (R105, R106), a wire constant (R103), an instruction in the space
it is offered in, and a choice of the open parameters (R4, R61).  Each check is a Bool. -/

namespace Sys2Proof

/-- A command word of R106: bits 7:4, which "must be written as 0" (R105), are 0 and `op_sel` is one of 0x1..0xC. -/
def CommandWord.wf (w : Byte) : Bool :=
  w.extractLsb' 4 4 == 0#4 && decide (1 ≤ (w.extractLsb' 0 4).toNat) && decide ((w.extractLsb' 0 4).toNat ≤ 12)

/-- One of the four byte values with a fixed meaning (R103). -/
def WireByte.wf (b : Byte) : Bool :=
  b == Config.cMark || b == Config.cTerm || b == Config.cOk || b == Config.cNg

/-- An instruction offered in a space is well formed when it is a row of that space: a wire constant is no command word
("byte on the serial link (not a command word)"), and a command word is no wire constant.  An instruction has no
operand field that could be ill formed (R105). -/
def Instr.wf (sp : Space) (i : Instr) : Bool :=
  i.space == sp

/-- The constraints on the open parameters: PAY_MAX <= 3832, TX_MAX <= RX_MAX <= 4096, 1 <= MAX_POINTS <= 255
(R4, R61; 92_eei_decisions.md, "Open parameters"). -/
def Config.Params.wf (p : Config.Params) : Bool :=
  decide (p.payMax ≤ 3832) && decide (p.txMax ≤ p.rxMax) && decide (p.rxMax ≤ 4096) &&
    decide (1 ≤ p.maxPoints) && decide (p.maxPoints ≤ 255)

end Sys2Proof
end

