-- ==== Sys2Proof/Decode.lean ====
section
/-! DEFINITION. The decoder and the encoder of the command word (R105 to R107) and of the wire constants (R103), both
written from the match and mask columns of R106 and spec/opcode_table.json. -/

namespace Sys2Proof

/-- Why a byte is no instruction, by name. -/
inductive Reject where
  /-- a command word with a non-zero bit in 7:4: reserved (R107) -/
  | reservedBits
  /-- a command word whose `op_sel` is 0x0, 0xD, 0xE or 0xF: reserved (R107) -/
  | reservedSelector
  /-- a wire byte with no fixed meaning: "No other byte value has a meaning to the block" (R103) -/
  | noFixedMeaning
deriving DecidableEq, Repr

/-- One row of the opcode table: a byte `w` selects it when `(w AND mask) = match` (R106). -/
structure OpcodeRow where
  pattern : Byte
  mask : Byte
  instr : Instr
deriving DecidableEq, Repr

/-- The twelve operations of R106. -/
def commandRows : List OpcodeRow :=
  [⟨0x01#8, 0xFF#8, .addrvT⟩, ⟨0x02#8, 0xFF#8, .addrvN⟩, ⟨0x03#8, 0xFF#8, .sinit⟩,
   ⟨0x04#8, 0xFF#8, .bcdenc⟩, ⟨0x05#8, 0xFF#8, .bcddec⟩, ⟨0x06#8, 0xFF#8, .pair2i⟩,
   ⟨0x07#8, 0xFF#8, .interp⟩, ⟨0x08#8, 0xFF#8, .rescale⟩, ⟨0x09#8, 0xFF#8, .prelut⟩,
   ⟨0x0A#8, 0xFF#8, .fenc⟩, ⟨0x0B#8, 0xFF#8, .fdec⟩, ⟨0x0C#8, 0xFF#8, .xchg⟩]

/-- The four wire constants of R103. -/
def wireRows : List OpcodeRow :=
  [⟨0xFE#8, 0xFF#8, .cPreMark⟩, ⟨0xFD#8, 0xFF#8, .cTerm⟩, ⟨0xFB#8, 0xFF#8, .cOk⟩, ⟨0xFA#8, 0xFF#8, .cNg⟩]

/-- The first row a byte selects. -/
def selectRow (rows : List OpcodeRow) (w : Byte) : Option Instr :=
  match rows with
  | [] => none
  | r :: rest => if w &&& r.mask = r.pattern then some r.instr else selectRow rest w

/-- The operation a command word selects, or the reason it is reserved (R106, R107). -/
def decodeCommand (w : Byte) : Except Reject Instr :=
  match selectRow commandRows w with
  | some i => .ok i
  | none => if w.extractLsb' 4 4 = 0#4 then .error .reservedSelector else .error .reservedBits

/-- The wire constant a byte of the serial link is (R103). -/
def decodeWire (b : Byte) : Except Reject Instr :=
  match selectRow wireRows b with
  | some i => .ok i
  | none => .error .noFixedMeaning

/-- The decoder of both spaces, total on any byte. -/
def decode (sp : Space) (b : Byte) : Except Reject Instr :=
  match sp with
  | .command => decodeCommand b
  | .wire => decodeWire b

/-- The encoder: the byte of an instruction, from the match column of spec/opcode_table.json. -/
def encode : Instr → Byte
  | .addrvT => 0x01#8
  | .addrvN => 0x02#8
  | .sinit => 0x03#8
  | .bcdenc => 0x04#8
  | .bcddec => 0x05#8
  | .pair2i => 0x06#8
  | .interp => 0x07#8
  | .rescale => 0x08#8
  | .prelut => 0x09#8
  | .fenc => 0x0A#8
  | .fdec => 0x0B#8
  | .xchg => 0x0C#8
  | .cPreMark => 0xFE#8
  | .cTerm => 0xFD#8
  | .cOk => 0xFB#8
  | .cNg => 0xFA#8

/-- The byte a table word stands for: every row of spec/opcode_table.json has 8 bits; a number that is not 8 bits wide
is no row's word. -/
def tableByte (nbits w : Nat) : Option Byte :=
  if nbits = 8 ∧ w < 256 then some (BitVec.ofNat 8 w) else none

/-- The instruction the decoder reads from a table word: the operation if the byte is a command word of R106, else the
wire constant if it is one of R103 (no byte is both). -/
def decodeTableWord (nbits w : Nat) : Option Instr :=
  match tableByte nbits w with
  | none => none
  | some b =>
    match decodeCommand b with
    | .ok i => some i
    | .error _ =>
      match decodeWire b with
      | .ok i => some i
      | .error _ => none

end Sys2Proof
end

