-- ==== Sys2Proof/Machine/Fetch.lean ====
section
/-! DEFINITION. How a step comes to its instruction.  The block fetches no instructions (R24): a command word reaches it
as a host write to CMD, a wire byte as an RxByte event of the Transport.  Every turn that brings neither is carried out
here. -/

namespace Sys2Proof.Machine

open Sys2Proof

/-- What a turn comes to: an instruction to be executed in a state, or an outcome already reached. -/
inductive Fetched where
  | run (i : Instr) (s : State)
  | settled (r : Result)

/-- A reserved command word: accepted as a command, completes at once in InvalidArgument(0x03) (R107). -/
def reservedWord (s : State) : Result := onCommand (raiseFailure .invalidArgument 0x03#8) s

/-- The host writes `v` to register number `n` (R62, R80, R81). -/
def fetchWrite (n : Nat) (v : HostWord) (s : State) : Fetched :=
  if n = 0 then
    match decodeCommand (v.setWidth 8) with
    | .ok i => .run i s
    | .error _ => .settled (reservedWord s)
  else if n < registerSpace then .settled (.next (hostWrite n v s))
  else .settled (.fault (.registerOutsideSpace n))

/-- The host reads register number `n` (R62, R79, R81). -/
def fetchRead (n : Nat) (s : State) : Fetched :=
  if n < registerSpace then .settled (.next (hostRead n s)) else .settled (.fault (.registerOutsideSpace n))

/-- The engine steps with the Transport's pins as given: it waits (R292), takes a wire byte, or makes another
transition of R221. -/
def fetchEdge (p : TransportPins) (s : State) : Fetched :=
  match edgeEvent p s with
  | none => .settled (.next s)
  | some (.rxByte b) =>
    match decodeWire b with
    | .ok i => .run i (s.withQueue s.env.rxQueue.tail)
    | .error _ => .settled (.next (offerByte b (s.withQueue s.env.rxQueue.tail)))
  | some e => .settled (.next (engineStep e s))

/-- Reset (R270, R271): the block takes its reset state whatever it was doing; the parameters and the Transport, "not
reset by `rst`", stay. -/
def resetBlock (s : State) : State := { State.reset with params := s.params, env := s.env }

/-- The turn that is next, and the schedule it leaves.  An empty schedule is taken up again from `Env.cycle`, so that an
environment can keep the engine supplied for ever (R220, U15); with nothing there either, the Transport is silent. -/
def nextTurn (e : Env) : Turn × List Turn :=
  match e.schedule, e.cycle with
  | turn :: rest, _ => (turn, rest)
  | [], turn :: rest => (turn, rest)
  | [], [] => (.edge .silent, [])

/-- What a turn comes to, in the state it has been taken off. -/
def fetchTurn (turn : Turn) (s : State) : Fetched :=
  match turn with
  | .edge p => fetchEdge p s
  | .host (.write n v) => fetchWrite n v s
  | .host (.read n) => fetchRead n s
  | .arrive b => .settled (.next (s.withQueue (s.env.rxQueue ++ [b])))
  | .baud v => .settled (.next (s.withEnv { s.env with tpBaud := v }))
  | .reset => .settled (.next (resetBlock s))

/-- The turn that is next, taken off the schedule and carried out. -/
def fetch (s : State) : Fetched :=
  fetchTurn (nextTurn s.env).1 (s.withSchedule (nextTurn s.env).2)

/-- The Transport offering the byte it holds. -/
def offeringPins : TransportPins := { TransportPins.silent with rxValid := true }

/-- `s` with the byte `b` placed where the next step meets it: a wire constant as the byte the Transport offers to a
read in progress (fsm = READ, BUSY = 1: no other state takes a byte, R69), any other byte as a host write to CMD. -/
def placeByte (b : Byte) (s : State) : State :=
  match decodeWire b with
  | .ok _ =>
    { s with
      seq := { s.seq with fsm := .read }
      flags := { s.flags with busy := true }
      env := { s.env with rxQueue := b :: s.env.rxQueue, schedule := .edge offeringPins :: s.env.schedule } }
  | .error _ =>
    { s with env := { s.env with schedule := .host (.write 0 (b.setWidth 66)) :: s.env.schedule } }

end Sys2Proof.Machine
end

