-- ==== Sys2Proof/Machine/Step.lean ====
section
/-! DEFINITION. One step: the next turn is fetched, and the instruction it brings, if any, is executed. -/

namespace Sys2Proof.Machine

open Sys2Proof

/-- One step of the machine (D1). -/
def step (s : State) : Host.Outcome State Fault Refusal :=
  match fetch s with
  | .run i t => exec i t
  | .settled r => r

/-- `s` with the table word `w` of `nbits` bits placed where `step` meets its next instruction (`placeByte`). -/
def State.withFetchWord (s : State) (nbits w : Nat) : State :=
  match tableByte nbits w with
  | some b => placeByte b s
  | none => s

end Sys2Proof.Machine
end

