-- ==== Sys2Proof/Safety.lean ====
section
/-! DEFINITION. What a safe run is: the host's duties of R277 with the "holds no value" of R23 (U10), the frame the
host must never offer (R280), the invariant of every reachable state, and the two invariants of a running exchange
(R84, R73). -/

namespace Sys2Proof.Safety

open Sys2Proof Sys2Proof.Machine

/-! ### The host's duties -/

/-- Does register number `n` hold a value (R23)?  The registers R270 gives a reset value always do; a byte of TXBUF or
RXBUF does below TXLEN or RXLEN (R63, R64), an RXBUF byte only once written; every other register and element does once
something has written it since reset. -/
def holdsValue (s : State) (n : Nat) : Bool :=
  match hostReg s.params n with
  | .cmd | .status | .errInfo | .tpBaud | .attempts | .txt0Len | .txt1Len | .npoints | .opcLen | .payLen | .preCnt
  | .txLen | .rxLen | .unmapped => true
  | .txByte => decide (n - baseTxbuf < s.regs.txLen.toNat)
  | .rxByte => decide (n - baseRxbuf < s.regs.rxLen.toNat) && s.written.contains n
  | _ => s.written.contains n

/-- The numbers of the elements of an array at `base` with index below `count`. -/
def elements (base count : Nat) : List Nat := (List.range count).map fun i => base + i

/-- The characters a text operand of length `len` reads: none below 4, the first four from 4 on (R131). -/
def textElements (base len : Nat) : List Nat := if len < 4 then [] else elements base 4

/-- The registers an operation reads that hold no value at reset (R108, "reads"). -/
def operandNumbers (i : Instr) (s : State) : List Nat :=
  match i with
  | .addrvT => textElements baseTxt0 s.regs.txt0Len.toNat
  | .addrvN => [0x0A]
  | .sinit =>
    textElements baseTxt0 s.regs.txt0Len.toNat ++ textElements baseTxt1 s.regs.txt1Len.toNat ++ [0x0B]
  | .bcdenc => [0x0C]
  | .bcddec => elements baseBcd 5
  | .pair2i => elements basePair 2
  | .interp => 0x0D :: (elements basePtRaw s.regs.npoints.toNat ++ elements basePtVal s.regs.npoints.toNat)
  | .rescale => [0x0D, 0x0E, 0x0F, 0x10, 0x11]
  | .prelut => []
  | .fenc => 0x17 :: 0x18 :: (elements baseOpc s.regs.opcLen.toNat ++ elements basePay s.regs.payLen.toNat)
  | .fdec => elements baseRxbuf s.regs.rxLen.toNat
  | .xchg => [0x03, 0x04, 0x05] ++ elements baseOpc s.regs.opcLen.toNat ++ elements basePay s.regs.payLen.toNat
  | .cPreMark | .cTerm | .cOk | .cNg => []

/-- Every operand register the operation reads holds a value: the duty of R277, outside which the spec gives the
operation no result (R23, D35). -/
def operandsHeld (i : Instr) (s : State) : Bool := (operandNumbers i s).all (holdsValue s)

/-- The registers that only operations write and that hold results (R22). -/
def isResult : HostReg → Bool
  | .res | .resRem | .resDen | .res8 | .rplDst | .rplSrc | .rplSt => true
  | _ => false

/-- A host access inside the host's duties (R277): no write while BUSY = 1, reads of four registers only while BUSY = 1,
results read only when DONE = 1 and ERR = 0, nothing read that holds no value, and a command only with its operands
written. -/
def dutifulAccess (a : HostAccess) (s : State) : Bool :=
  match a with
  | .write n v =>
    decide (n < registerSpace) && !s.flags.busy &&
      (n != 0 || match decodeCommand (v.setWidth 8) with
        | .ok i => operandsHeld i s
        | .error _ => true)
  | .read n =>
    decide (n < registerSpace) &&
      (if s.flags.busy then readableWhileBusy (hostReg s.params n)
       else holdsValue s n && (!isResult (hostReg s.params n) || (s.flags.done && !s.flags.err)))

/-- The next turn is inside the host's duties. -/
def dutifulTurn (s : State) : Bool :=
  match (nextTurn s.env).1 with
  | .host a => dutifulAccess a s
  | _ => true

/-- A run of `k` steps whose every turn is inside the host's duties. -/
def dutifulRun (k : Nat) (s : State) : Bool :=
  match k with
  | 0 => true
  | k + 1 =>
    dutifulTurn s &&
      match step s with
      | .next t => dutifulRun k t
      | _ => false

/-- A frame with no C_TERM before its last byte, the only kind the host may offer (R280). -/
def terminatorOnlyLast (f : List Byte) : Bool := f.dropLast.all (fun b => b != Config.cTerm)

/-! ### The invariant of every reachable state -/

/-- What every reachable state satisfies, whatever the host and the Transport do. -/
structure Invariant (s : State) : Prop where
  /-- the open parameters are inside their bounds (R4, R61) -/
  params : s.params.wf = true
  /-- the byte memory is in canonical form -/
  mem : Memory.wf s.mem = true
  /-- the breakpoint table is in canonical form -/
  points : PointTable.wf s.points = true
  /-- an operation is in progress exactly while XCHG is at a step (R24, R26) -/
  busy : s.flags.busy = true ↔ s.seq.fsm ≠ .idle
  /-- an accepted command has cleared the completion flags (R80) -/
  running : s.flags.busy = true →
    s.flags.done = false ∧ s.flags.err = false
  /-- a failure is a completion (R250) -/
  errDone : s.flags.err = true → s.flags.done = true
  /-- ERR_CODE and ERR_INFO are 0 when ERR = 0 (R26, R251) -/
  noError : s.flags.err = false → s.flags.errCode = 0#4 ∧ s.flags.errInfo = 0#8
  /-- codes 9..15 are never produced, and a failure has a code (R240) -/
  code : s.flags.err = true → 1 ≤ s.flags.errCode.toNat ∧ s.flags.errCode.toNat ≤ 8
  /-- only XCHG runs over several steps, and it needs a Session (R201) -/
  session : s.flags.busy = true → s.flags.svalid = true
  /-- a Session's budget is at least 1 (R138) -/
  budget : s.flags.svalid = true → 1 ≤ s.session.maxAtt.toNat
  /-- ATTEMPTS never exceeds S.max_attempts (R25) -/
  attempts : s.flags.svalid = true → s.seq.attempts.toNat ≤ s.session.maxAtt.toNat
  /-- no exchange has counted an attempt before there is a Session (R25) -/
  noAttempts : s.flags.svalid = false → s.seq.attempts = 0#8
  /-- a read is in progress only with budget left (R205) -/
  guard : s.seq.fsm = .read ∨ s.seq.fsm = .classify → s.seq.attempts.toNat < s.session.maxAtt.toNat
  /-- TXLEN never exceeds TX_MAX (R183) -/
  txLen : s.regs.txLen.toNat ≤ s.params.txMax
  /-- an outbound frame is at least 6 bytes long (R101, R211) -/
  frame : s.seq.fsm ≠ .idle → 6 ≤ s.regs.txLen.toNat
  /-- while the frame is being written a byte of it is still to be handed over (R24, R69) -/
  txIdx : s.seq.fsm = .write → s.seq.txIdx.toNat < s.regs.txLen.toNat
  /-- a candidate fits the receive buffer (R73, R76) -/
  rxLen : s.seq.fsm = .read ∨ s.seq.fsm = .classify → s.regs.rxLen.toNat ≤ s.params.rxMax

/-- While XCHG runs, TXBUF holds the frame its own Build wrote from the Session and the operand registers, and the
Transport has accepted exactly the bytes below tx_idx of it, then all of it (R82, R84, R203). -/
def FrameCoherent (s : State) : Prop :=
  (s.seq.fsm ≠ .idle → txFrame s = builtFrame s.session.xcvr s.session.ctrl s) ∧
  (s.seq.fsm = .write → ∃ before, s.env.wireOut = before ++ (txFrame s).take s.seq.txIdx.toNat) ∧
  (s.seq.fsm = .read ∨ s.seq.fsm = .classify → ∃ before, s.env.wireOut = before ++ txFrame s)

/-- The candidate of a read in progress holds no C_TERM, and a finished one none before its last byte (R73, R74). -/
def CandidateFramed (s : State) : Prop :=
  (s.seq.fsm = .read → Config.cTerm ∉ candidate s) ∧
  (s.seq.fsm = .classify → Config.cTerm ∉ (candidate s).dropLast)

end Sys2Proof.Safety
end

