-- ==== Sys2Proof/Certificates/Slice0/Obligations.lean ====
section
/-! DEFINITION. The statements for the provers, in the order of the spec's files, and the few terms they are written in.
A statement about a NEXT state gives that state whole, as the old one with the parts named that change: every part not
named is its frame.  `written` is the model's own bookkeeping (R23) and is left open. -/

namespace Sys2Proof.Claims

open Sys2Proof Sys2Proof.Machine Sys2Proof.Safety

/-- Completion in success, in the numbers of R251: ERR, ERR_CODE, ERR_INFO and BUSY 0, DONE 1, fsm IDLE. -/
def succeeded (s : State) : State :=
  { s with
    seq := { s.seq with fsm := .idle }
    flags := { s.flags with busy := false, done := true, err := false, errCode := 0#4, errInfo := 0#8 } }

/-- Completion in failure, in the numbers of R250: ERR_CODE and ERR_INFO as given, ERR and DONE 1, BUSY 0, fsm IDLE.
-/
def failed (code : BitVec 4) (info : Byte) (s : State) : State :=
  { s with
    seq := { s.seq with fsm := .idle }
    flags := { s.flags with busy := false, done := true, err := true, errCode := code, errInfo := info } }

/-- The registers with a rational result in them (R159). -/
def withResult (q r d : Int) (g : Regs) : Regs :=
  { g with res := BitVec.ofInt 66 q, resRem := BitVec.ofInt 33 r, resDen := BitVec.ofInt 33 d }

/-- PT_RAW[i] as a number (R34). -/
def ptRaw (s : State) (i : Nat) : Int := (cellRead s.points (0x1000 + i)).toInt

/-- PT_VAL[i] as a number (R34). -/
def ptVal (s : State) (i : Nat) : Int := (cellRead s.points (0x1400 + i)).toInt

/-- Two memories agree but for `len` elements from `base` on. -/
def sameOutside {w : Nat} (base len : Nat) (m m' : List (Nat × BitVec w)) : Prop :=
  ∀ a, a < base ∨ base + len ≤ a → cellRead m' a = cellRead m a

/-- The memory `m` holds in TXBUF, field by field at the byte positions of R101, the frame from `src` to `dst` of the
operand registers of `s`. -/
def holdsFrame (m : Memory) (dst src : Byte) (s : State) : Prop :=
  let p := s.regs.preCnt.toNat
  let k := s.regs.opcLen.toNat
  let n := s.regs.payLen.toNat
  (∀ j < p, cellRead m (0x2000 + j) = 0xFE#8) ∧
  cellRead m (0x2000 + p) = 0xFE#8 ∧ cellRead m (0x2000 + (p + 1)) = 0xFE#8 ∧
  cellRead m (0x2000 + (p + 2)) = dst ∧ cellRead m (0x2000 + (p + 3)) = src ∧
  (∀ j < k, cellRead m (0x2000 + (p + 4 + j)) = cellRead s.mem (0x54 + j)) ∧
  (∀ j < n, cellRead m (0x2000 + (p + 4 + k + j)) = cellRead s.mem (0x100 + j)) ∧
  cellRead m (0x2000 + (p + 4 + k + n)) = 0xFD#8

/-- The length of that frame (R101). -/
def frameLength (s : State) : Nat := s.regs.preCnt.toNat + s.regs.opcLen.toNat + s.regs.payLen.toNat + 5

/-- OPC_LEN and PAY_LEN pass the checks of R182 and R201. -/
abbrev lengthsAccepted (s : State) : Prop :=
  1 ≤ s.regs.opcLen.toNat ∧ s.regs.opcLen.toNat ≤ 4 ∧ s.regs.payLen.toNat ≤ s.params.payMax

/-- The numbers of fsm (R24). -/
def fsmNumber : Fsm → Nat
  | .idle => 0
  | .write => 1
  | .read => 2
  | .classify => 3

/-- The scalar registers the host may write (R22): number, width, signed. -/
def writableScalars : List (Nat × Nat × Bool) :=
  [(0x08, 8, false), (0x09, 8, false), (0x0A, 16, false), (0x0B, 8, false), (0x0C, 64, true), (0x0D, 32, true),
   (0x0E, 32, true), (0x0F, 32, true), (0x10, 32, true), (0x11, 32, true), (0x12, 8, false), (0x17, 8, false),
   (0x18, 8, false), (0x19, 3, false), (0x1A, 16, false), (0x1B, 8, false), (0x1D, 16, false)]

/-- The numbers of the byte-array operand registers (R33). -/
abbrev isOperandByte (p : Config.Params) (n : Nat) : Prop :=
  (0x40 ≤ n ∧ n < 0x4D) ∨ (0x50 ≤ n ∧ n < 0x52) ∨ (0x54 ≤ n ∧ n < 0x58) ∨ (0x100 ≤ n ∧ n < 0x100 + p.payMax)

/-- The operand registers after a host write of `v` to a scalar operand register (R22): number and registers. -/
def storedBy (v : HostWord) (g : Regs) : List (Nat × Regs) :=
  [(0x08, { g with txt0Len := v.setWidth 8 }), (0x09, { g with txt1Len := v.setWidth 8 }),
   (0x0A, { g with num0 := v.setWidth 16 }), (0x0B, { g with attIn := v.setWidth 8 }),
   (0x0C, { g with freqIn := v.setWidth 64 }), (0x0D, { g with xIn := v.setWidth 32 }),
   (0x0E, { g with oldMin := v.setWidth 32 }), (0x0F, { g with oldMax := v.setWidth 32 }),
   (0x10, { g with newMin := v.setWidth 32 }), (0x11, { g with newMax := v.setWidth 32 }),
   (0x12, { g with npoints := v.setWidth 8 }), (0x17, { g with fdst := v.setWidth 8 }),
   (0x18, { g with fsrc := v.setWidth 8 }), (0x19, { g with opcLen := v.setWidth 3 }),
   (0x1A, { g with payLen := v.setWidth 16 }), (0x1B, { g with preCnt := v.setWidth 8 }),
   (0x1D, { g with rxLen := v.setWidth 16 })]

/-- What each scalar register delivers to a host read while BUSY = 0 (R22, R24 to R32, R62): number and value, the
signed registers sign-extended, the others zero-extended; CMD reads as 0. -/
def scalarValues (s : State) : List (Nat × HostWord) :=
  [(0x00, 0#66), (0x01, (statusWord s).setWidth 66), (0x02, s.flags.errInfo.setWidth 66),
   (0x03, s.session.ctrl.setWidth 66), (0x04, s.session.xcvr.setWidth 66), (0x05, s.session.maxAtt.setWidth 66),
   (0x06, s.env.tpBaud.setWidth 66), (0x07, s.seq.attempts.setWidth 66), (0x08, s.regs.txt0Len.setWidth 66),
   (0x09, s.regs.txt1Len.setWidth 66), (0x0A, s.regs.num0.setWidth 66), (0x0B, s.regs.attIn.setWidth 66),
   (0x0C, s.regs.freqIn.signExtend 66), (0x0D, s.regs.xIn.signExtend 66), (0x0E, s.regs.oldMin.signExtend 66),
   (0x0F, s.regs.oldMax.signExtend 66), (0x10, s.regs.newMin.signExtend 66), (0x11, s.regs.newMax.signExtend 66),
   (0x12, s.regs.npoints.setWidth 66), (0x13, s.regs.res.signExtend 66), (0x14, s.regs.resRem.setWidth 66),
   (0x15, s.regs.resDen.setWidth 66), (0x16, s.regs.res8.setWidth 66), (0x17, s.regs.fdst.setWidth 66),
   (0x18, s.regs.fsrc.setWidth 66), (0x19, s.regs.opcLen.setWidth 66), (0x1A, s.regs.payLen.setWidth 66),
   (0x1B, s.regs.preCnt.setWidth 66), (0x1C, s.regs.txLen.setWidth 66), (0x1D, s.regs.rxLen.setWidth 66),
   (0x1E, s.regs.rplDst.setWidth 66), (0x1F, s.regs.rplSrc.setWidth 66), (0x20, s.regs.rplSt.setWidth 66)]

/-- The numbers the map of R61 leaves out: above the scalar registers, the gaps of the array range (R33), and the rest
of every window above its capacity. -/
abbrev isUnmapped (p : Config.Params) (n : Nat) : Prop :=
  (0x21 ≤ n ∧ n < 0x40) ∨ (0x4D ≤ n ∧ n < 0x50) ∨ (0x52 ≤ n ∧ n < 0x54) ∨ (0x58 ≤ n ∧ n < 0x100) ∨
    (0x100 + p.payMax ≤ n ∧ n < 0x1000) ∨ (0x1000 + p.maxPoints ≤ n ∧ n < 0x1400) ∨
    (0x1400 + p.maxPoints ≤ n ∧ n < 0x2000) ∨ (0x2000 + p.txMax ≤ n ∧ n < 0x3000) ∨
    (0x3000 + p.rxMax ≤ n ∧ n < 0x4000)

/-- The numbers of the registers and window elements the host may only read (R22, R24 to R27, R30, R32, R63). -/
abbrev isReadOnly (p : Config.Params) (n : Nat) : Prop :=
  (1 ≤ n ∧ n < 8) ∨ (0x13 ≤ n ∧ n < 0x17) ∨ n = 0x1C ∨ (0x1E ≤ n ∧ n < 0x21) ∨
    (0x2000 ≤ n ∧ n < 0x2000 + p.txMax)

/-- The numbers of the breakpoint table (R34). -/
abbrev isPoint (p : Config.Params) (n : Nat) : Prop :=
  (0x1000 ≤ n ∧ n < 0x1000 + p.maxPoints) ∨ (0x1400 ≤ n ∧ n < 0x1400 + p.maxPoints)

/-- Pins with which a Transport accepts a byte. -/
abbrev accepting (p : TransportPins) : Prop := p.txErr = false ∧ p.txReady = true

/-- Pins with which a Transport offers a byte to a read. -/
abbrev offering (p : TransportPins) : Prop := p.rxErr = false ∧ p.rxValid = true

/-- Pins with which a Transport's read timeout fires. -/
abbrev timingOut (p : TransportPins) : Prop := p.rxErr = false ∧ p.rxValid = false ∧ p.rxTimeout = true

/-- The engine's turns with the same pins, `k` times. -/
def edges (k : Nat) (p : TransportPins) : List Turn := List.replicate k (.edge p)

/-- The turns of `k` reads that end in silence: a timeout, then a classification, each time. -/
def silentReads (k : Nat) (p q : TransportPins) : List Turn :=
  match k with
  | 0 => []
  | k + 1 => .edge p :: .edge q :: silentReads k p q

/-- A candidate as a read delivers it: ended by its only C_TERM (R73), and small enough for RXBUF. -/
def terminated (s : State) (c : List Byte) : Prop :=
  ∃ body, c = body ++ [0xFD#8] ∧ (0xFD#8 : Byte) ∉ body ∧ c.length ≤ s.params.rxMax

/-- A candidate XCHG drops for free (R210, R213, R214): the echo of the outbound frame, or one of length at least 3
that is not from the transceiver to the controller. -/
abbrev freeDiscard (s : State) (c : List Byte) : Prop :=
  c = txFrame s ∨
    (3 ≤ c.length ∧ (c.length = 3 ∨ c.getD 2 0#8 ≠ s.session.ctrl ∨ c.getD 3 0#8 ≠ s.session.xcvr))

/-- The turns in which a read receives each of the candidates in turn and classifies it. -/
def receiveAll (cs : List (List Byte)) (p : TransportPins) : List Turn :=
  match cs with
  | [] => []
  | c :: rest => edges (c.length + 1) p ++ receiveAll rest p

/-- The turns in which the Transport receives the candidates and the block then reads and classifies each. -/
def supply (cs : List (List Byte)) (p : TransportPins) : List Turn :=
  cs.flatten.map Turn.arrive ++ receiveAll cs p

/-- The next turn is a reset. -/
def resetTurn (s : State) : Prop := (nextTurn s.env).1 = .reset

/-- The next turn is a host write to CMD of a word that selects `i`. -/
def commandTurn (i : Instr) (s : State) : Prop :=
  ∃ v, (nextTurn s.env).1 = .host (.write 0 v) ∧ decodeCommand (v.setWidth 8) = .ok i

end Sys2Proof.Claims

open Sys2Proof Sys2Proof.Machine Sys2Proof.Safety Sys2Proof.Claims

/-! ### Encodings and the step -/

/-- R106, R103: every row of the opcode table, its word written out, decodes to its instruction in its own space. -/
def Obligations.OpcodeTableDecodes : Prop :=
  (decodeCommand 0b00000001#8 = .ok .addrvT ∧ decodeCommand 0b00000010#8 = .ok .addrvN ∧
   decodeCommand 0b00000011#8 = .ok .sinit ∧ decodeCommand 0b00000100#8 = .ok .bcdenc ∧
   decodeCommand 0b00000101#8 = .ok .bcddec ∧ decodeCommand 0b00000110#8 = .ok .pair2i ∧
   decodeCommand 0b00000111#8 = .ok .interp ∧ decodeCommand 0b00001000#8 = .ok .rescale ∧
   decodeCommand 0b00001001#8 = .ok .prelut ∧ decodeCommand 0b00001010#8 = .ok .fenc ∧
   decodeCommand 0b00001011#8 = .ok .fdec ∧ decodeCommand 0b00001100#8 = .ok .xchg) ∧
  (decodeWire 0b11111110#8 = .ok .cPreMark ∧ decodeWire 0b11111101#8 = .ok .cTerm ∧
   decodeWire 0b11111011#8 = .ok .cOk ∧ decodeWire 0b11111010#8 = .ok .cNg)

/-- Decode and encode agree in both directions, in each space (R103, R105, R106). -/
def Obligations.DecodeInvertsEncode : Prop :=
  (∀ sp i, i.wf sp = true → decode sp (encode i) = .ok i) ∧
  (∀ sp b i, decode sp b = .ok i → i.wf sp = true ∧ encode i = b)

/-- A step runs the command it decodes: a host write to CMD whose word decodes to `i` is `exec i` on the state with
that turn taken off the schedule, and nothing else. (The schedule of turns is the model's: notes/assumptions/6.md and
8.md.) -/
def Obligations.StepRunsTheDecodedCommand : Prop :=
  ∀ s v i rest, nextTurn s.env = (.host (.write 0 v), rest) → decodeCommand (v.setWidth 8) = .ok i →
    i.wf .command = true ∧ step s = exec i (s.withSchedule rest)

/-- A step runs the wire constant it decodes: a byte the Transport offers to a read in progress, with no RxError, that
decodes to `i` is `exec i` on the state with the turn and the byte taken. (That a wire constant is executed when it is
received is the model's reading: notes/assumptions/7.md and 8.md.) -/
def Obligations.StepRunsTheDecodedWireByte : Prop :=
  ∀ s p b i rest queue, nextTurn s.env = (.edge p, rest) → offering p → s.seq.fsm = .read →
    s.env.rxQueue = b :: queue → decodeWire b = .ok i →
    i.wf .wire = true ∧ step s = exec i ((s.withSchedule rest).withQueue queue)

/-- R107: a reserved command word written while BUSY = 0 completes at once in InvalidArgument(0x03) and changes no
other state. -/
def Obligations.ReservedWordsFail : Prop :=
  ∀ s v rest, nextTurn s.env = (.host (.write 0 v), rest) → s.flags.busy = false →
    (BitVec.extractLsb' 4 4 v ≠ 0#4 ∨ BitVec.extractLsb' 0 4 v ∈ [0#4, 0xD#4, 0xE#4, 0xF#4]) →
    step s = .next (failed 3#4 0x03#8 (s.withSchedule rest))

/-! ### The host interface -/

/-- R81 (and D21: "every host write"): while BUSY = 1 a host write to any number of the register space, CMD and
unmapped numbers included, only sets DROPPED; a host read changes nothing of
the block, and of STATUS, ERR_INFO, ATTEMPTS and TP_BAUD returns the current value (of anything else the value is left
open). -/
def Obligations.AccessesWhileBusy : Prop :=
  (∀ s n v rest, s.flags.busy = true → n < 0x4000 → nextTurn s.env = (.host (.write n v), rest) →
    step s = .next { s.withSchedule rest with flags := { s.flags with dropped := true } }) ∧
  (∀ s n rest, s.flags.busy = true → n < 0x4000 → nextTurn s.env = (.host (.read n), rest) →
    ∃ d c, step s = .next { s with env := { s.env with schedule := rest, hRdata := d, freeCount := c } } ∧
      (n = 1 → d = (statusWord s).setWidth 66) ∧ (n = 2 → d = s.flags.errInfo.setWidth 66) ∧
      (n = 6 → d = s.env.tpBaud.setWidth 66) ∧ (n = 7 → d = s.seq.attempts.setWidth 66))

/-- Every host read leaves the block as it was: only h_rdata moves (R79). -/
def Obligations.HostReadsHaveNoSideEffect : Prop :=
  ∀ s n rest, n < 0x4000 → nextTurn s.env = (.host (.read n), rest) →
    ∃ d c, step s = .next { s with env := { s.env with schedule := rest, hRdata := d, freeCount := c } }

/-- A host read of STATUS delivers every flag at its place (R26): the number is the sum of the fields at their
weights, so bits 15:12 read as 0. -/
def Obligations.StatusReadsItsFields : Prop :=
  ∀ s rest, nextTurn s.env = (.host (.read 1), rest) →
    ∃ t, step s = .next t ∧
      t.env.hRdata.toNat =
        s.flags.busy.toNat + 2 * s.flags.done.toNat + 4 * s.flags.err.toNat + 8 * s.flags.svalid.toNat +
          16 * s.flags.errCode.toNat + 256 * s.flags.dropped.toNat + 512 * s.flags.rplSrcOk.toNat +
          1024 * fsmNumber s.seq.fsm

/-- R22, R62: a host write to a scalar operand register while BUSY = 0 puts the low bits of the data into that
register, the one R22 gives the number, and changes nothing else: no other register, no flag, no memory. What was
written is read back under the same number, zero-extended, or sign-extended where the register is signed. -/
def Obligations.ScalarRegistersReadBack : Prop :=
  (∀ s n v g rest, s.flags.busy = false → (n, g) ∈ storedBy v s.regs →
    nextTurn s.env = (.host (.write n v), rest) →
    ∃ w, step s = .next { s.withSchedule rest with regs := g, written := w }) ∧
  (∀ n w signed, (n, w, signed) ∈ writableScalars → ∀ (s : State) v rest, s.flags.busy = false →
    s.env.schedule = .host (.write n v) :: .host (.read n) :: rest →
    ∃ t : State, Host.Core.run Sys2Proof.core 2 s = .next t ∧
      t.env.hRdata = if signed then (v.setWidth w).signExtend 66 else (v.setWidth w).setWidth 66)

/-- A host read while BUSY = 0 delivers the register, element or buffer byte its number names, and changes nothing else
(R22, R29, R33, R34, R61 to R64): every scalar register; every element of an operand array; every breakpoint word,
sign-extended; a byte of TXBUF below TXLEN and of RXBUF below RXLEN; 0 at an unmapped number. (That the gaps of the
array range are unmapped is the model's reading: notes/assumptions/9.md.) -/
def Obligations.HostReadsDeliverTheirRegister : Prop :=
  ∀ s, s.params.wf = true → s.flags.busy = false →
    let delivers := fun (n : Nat) (d : HostWord) => ∀ rest, nextTurn s.env = (.host (.read n), rest) →
      step s = .next { s with env := { s.env with schedule := rest, hRdata := d } }
    (∀ n d, (n, d) ∈ scalarValues s → delivers n d) ∧
    (∀ n, isOperandByte s.params n → delivers n ((cellRead s.mem n).setWidth 66)) ∧
    (∀ n, isPoint s.params n → delivers n ((cellRead s.points n).signExtend 66)) ∧
    (∀ j < s.regs.txLen.toNat, j < s.params.txMax →
      delivers (0x2000 + j) ((cellRead s.mem (0x2000 + j)).setWidth 66)) ∧
    (∀ j < s.regs.rxLen.toNat, j < s.params.rxMax →
      delivers (0x3000 + j) ((cellRead s.mem (0x3000 + j)).setWidth 66)) ∧
    (∀ n, isUnmapped s.params n → delivers n 0#66)

/-- A host write while BUSY = 0 to an element of a byte-array operand register (R33), to a byte of the RXBUF window (R64)
or to a word of the breakpoint table (R34) stores the low bits there (R62) and changes nothing else: no register, no
flag, no other element. -/
def Obligations.OperandByteWritesAreExact : Prop :=
  (∀ s n v rest, s.params.wf = true → Memory.wf s.mem = true → s.flags.busy = false →
    (isOperandByte s.params n ∨ (0x3000 ≤ n ∧ n < 0x3000 + s.params.rxMax)) →
    nextTurn s.env = (.host (.write n v), rest) →
    ∃ m w, step s = .next { s.withSchedule rest with mem := m, written := w } ∧
      cellRead m n = v.setWidth 8 ∧ sameOutside n 1 s.mem m) ∧
  (∀ s n v rest, s.params.wf = true → PointTable.wf s.points = true → s.flags.busy = false → isPoint s.params n →
    nextTurn s.env = (.host (.write n v), rest) →
    ∃ m w, step s = .next { s.withSchedule rest with points := m, written := w } ∧
      cellRead m n = v.setWidth 32 ∧ sameOutside n 1 s.points m)

/-- A host write to any unmapped number, or to any register or window element the host may only read, while BUSY = 0
changes nothing (R61, R22, R63; that a write to a read-only register is ignored, and that the gaps of the array range,
0x4D to 0x4F and 0x52 to 0x53, are unmapped, are the model's readings: notes/assumptions/9.md). -/
def Obligations.UnwritableNumbersIgnoreWrites : Prop :=
  ∀ s n v rest, s.params.wf = true → s.flags.busy = false → nextTurn s.env = (.host (.write n v), rest) →
    isUnmapped s.params n ∨ isReadOnly s.params n →
    step s = .next (s.withSchedule rest)

/-! ### Completion -/

/-- Every operation but XCHG is one indivisible state change (R9): accepted while BUSY = 0 it is complete in the next
state, in success or in a failure with a code of its own, the environment and the parameters untouched. -/
def Obligations.OneStepOperationsComplete : Prop :=
  ∀ i s, i.wf .command = true → i ≠ .xchg → s.flags.busy = false →
    ∃ t, exec i s = .next t ∧ t.flags.busy = false ∧ t.flags.done = true ∧ t.seq.fsm = .idle ∧
      t.seq.attempts = s.seq.attempts ∧ t.env = s.env ∧ t.params = s.params ∧ t.flags.dropped = s.flags.dropped ∧
      (t.flags.err = false → t.flags.errCode = 0#4 ∧ t.flags.errInfo = 0#8) ∧
      (t.flags.err = true → 1 ≤ t.flags.errCode.toNat ∧ t.flags.errCode.toNat ≤ 5)

/-- A failure raised at the CMD write, by any operation (for XCHG: by a pre-I/O check), leaves everything but the
completion flags as it was before the CMD write (R252). -/
def Obligations.FailuresAtTheCommandArePrecise : Prop :=
  ∀ i s t, i.wf .command = true → s.flags.busy = false → exec i s = .next t → t.flags.err = true →
    t = failed t.flags.errCode t.flags.errInfo s

/-! ### Address validator and Session -/

/-- R130: the values of the hexadecimal digit characters, both letter cases, and no other character has one. (R130
marks the character codes "[from general knowledge, not in source]".) -/
def Obligations.HexDigitValues : Prop :=
  (∀ k < 10, hexVal (BitVec.ofNat 8 (0x30 + k)) = some k) ∧
  (∀ k < 6, hexVal (BitVec.ofNat 8 (0x41 + k)) = some (10 + k) ∧ hexVal (BitVec.ofNat 8 (0x61 + k)) = some (10 + k)) ∧
  (∀ c : Byte, hexVal c ≠ none ↔
    (0x30 ≤ c.toNat ∧ c.toNat ≤ 0x39) ∨ (0x41 ≤ c.toNat ∧ c.toNat ≤ 0x46) ∨ (0x61 ≤ c.toNat ∧ c.toNat ≤ 0x66))

/-- R131: ParseAddr accepts exactly the text '0', 'x' and two hexadecimal digits of length 4, and its value is 16
times the first digit plus the second. -/
def Obligations.ParseAddrAcceptsTheFixedForm : Prop :=
  ∀ (n : BitVec 8) (t : List Byte) (a : Byte), t.length = 4 →
    (parseAddr n t = some a ↔
      n = 4#8 ∧ ∃ c d h l, t = [0x30#8, 0x78#8, c, d] ∧ hexVal c = some h ∧ hexVal d = some l ∧
        a.toNat = 16 * h + l)

/-- R132: ADDRV_T delivers in RES8 the address ParseAddr reads from text operand 0, or fails with
InvalidAddress(0x01). -/
def Obligations.AddrvTValidatesText : Prop :=
  ∀ s, s.flags.busy = false →
    (∀ a, parseAddr s.regs.txt0Len (cellReadSeq s.mem 0x40 4) = some a →
      ∃ w, exec .addrvT s = .next (succeeded { s with regs := { s.regs with res8 := a }, written := w })) ∧
    (parseAddr s.regs.txt0Len (cellReadSeq s.mem 0x40 4) = none →
      exec .addrvT s = .next (failed 1#4 0x01#8 s))

/-- R133: ADDRV_N delivers NUM0[7:0] in RES8 when NUM0 <= 0xFF, and else fails with InvalidAddress(0x01). -/
def Obligations.AddrvNValidatesANumber : Prop :=
  ∀ s, s.flags.busy = false →
    (s.regs.num0.toNat ≤ 0xFF →
      ∃ w a, exec .addrvN s = .next (succeeded { s with regs := { s.regs with res8 := a }, written := w }) ∧
        a.toNat = s.regs.num0.toNat) ∧
    (0xFF < s.regs.num0.toNat → exec .addrvN s = .next (failed 1#4 0x01#8 s))

/-- R135 to R138: SINIT writes the three Session registers and SVALID, or fails: with a Session already there, then
with an invalid address text (each reported in its own bit), then with a budget of 0. -/
def Obligations.SinitConstructsTheSession : Prop :=
  ∀ s, s.flags.busy = false →
    let c := parseAddr s.regs.txt0Len (cellReadSeq s.mem 0x40 4)
    let x := parseAddr s.regs.txt1Len (cellReadSeq s.mem 0x44 4)
    (s.flags.svalid = true → exec .sinit s = .next (failed 3#4 0x09#8 s)) ∧
    (s.flags.svalid = false → c = none → x ≠ none → exec .sinit s = .next (failed 1#4 0x01#8 s)) ∧
    (s.flags.svalid = false → c ≠ none → x = none → exec .sinit s = .next (failed 1#4 0x02#8 s)) ∧
    (s.flags.svalid = false → c = none → x = none → exec .sinit s = .next (failed 1#4 0x03#8 s)) ∧
    (s.flags.svalid = false → c ≠ none → x ≠ none → s.regs.attIn = 0#8 →
      exec .sinit s = .next (failed 3#4 0x06#8 s)) ∧
    (∀ cv xv, s.flags.svalid = false → c = some cv → x = some xv → s.regs.attIn ≠ 0#8 →
      ∃ w, exec .sinit s = .next (succeeded
        { s with
          session := { ctrl := cv, xcvr := xv, maxAtt := s.regs.attIn }
          flags := { s.flags with svalid := true }
          written := w }))

/-- R31, R137: once a Session exists, no step but a reset changes any of its registers or SVALID. -/
def Obligations.TheSessionIsImmutable : Prop :=
  ∀ s t, s.flags.svalid = true → ¬ resetTurn s → step s = .next t →
    t.session = s.session ∧ t.flags.svalid = true

/-! ### Numeric codecs -/

/-- R151, R152: BCDENC writes into BCD[i] the decimal digits 2i+1 (high nibble) and 2i (low nibble) of FREQ_IN and
changes no other byte; a negative frequency fails with EncodeError(0x01), one of more than 10 digits with
EncodeError(0x02). -/
def Obligations.BcdencWritesTheDigits : Prop :=
  ∀ s, s.flags.busy = false →
    (Memory.wf s.mem = true → 0 ≤ s.regs.freqIn.toInt → s.regs.freqIn.toInt ≤ 9999999999 →
      ∃ m w, exec .bcdenc s = .next (succeeded { s with mem := m, written := w }) ∧ sameOutside 0x48 5 s.mem m ∧
        ∀ i < 5, (cellRead m (0x48 + i)).toNat =
          16 * (s.regs.freqIn.toInt.toNat / 10 ^ (2 * i + 1) % 10) + s.regs.freqIn.toInt.toNat / 10 ^ (2 * i) % 10) ∧
    (s.regs.freqIn.toInt < 0 → exec .bcdenc s = .next (failed 4#4 0x01#8 s)) ∧
    (9999999999 < s.regs.freqIn.toInt → exec .bcdenc s = .next (failed 4#4 0x02#8 s))

/-- R153: BCDDEC delivers the number whose base-100 digits are the packed pairs of BCD[0..4], least significant first;
with a nibble above 9 it fails with DecodeError(i), i the lowest index of such a byte. -/
def Obligations.BcddecReadsTheDigits : Prop :=
  ∀ s, s.flags.busy = false →
    ((∀ i < 5, (cellRead s.mem (0x48 + i)).toNat / 16 ≤ 9 ∧ (cellRead s.mem (0x48 + i)).toNat % 16 ≤ 9) →
      ∃ w, exec .bcddec s = .next (succeeded
        { s with
          regs := withResult ((∑ i ∈ Finset.range 5,
            (10 * ((cellRead s.mem (0x48 + i)).toNat / 16) + (cellRead s.mem (0x48 + i)).toNat % 16) * 100 ^ i : Nat))
            0 1 s.regs
          written := w })) ∧
    (∀ i < 5, (9 < (cellRead s.mem (0x48 + i)).toNat / 16 ∨ 9 < (cellRead s.mem (0x48 + i)).toNat % 16) →
      (∀ j < i, (cellRead s.mem (0x48 + j)).toNat / 16 ≤ 9 ∧ (cellRead s.mem (0x48 + j)).toNat % 16 ≤ 9) →
      exec .bcddec s = .next (failed 5#4 (BitVec.ofNat 8 i) s))

/-- R154 (a rule the spec marks as derived from R151 and R153): BCDDEC after BCDENC gives the frequency back, and
BCDENC of what BCDDEC read from a field with every nibble at most 9 gives the field back. -/
def Obligations.BcdRoundTrips : Prop :=
  (∀ s, s.flags.busy = false → Memory.wf s.mem = true → 0 ≤ s.regs.freqIn.toInt → s.regs.freqIn.toInt ≤ 9999999999 →
    ∃ t u, exec .bcdenc s = .next t ∧ exec .bcddec t = .next u ∧ u.flags.err = false ∧
      u.regs.res.toInt = s.regs.freqIn.toInt) ∧
  (∀ s, s.flags.busy = false → Memory.wf s.mem = true →
    (∀ i < 5, (cellRead s.mem (0x48 + i)).toNat / 16 ≤ 9 ∧ (cellRead s.mem (0x48 + i)).toNat % 16 ≤ 9) →
    ∃ t u, exec .bcddec s = .next t ∧
      exec .bcdenc { t with regs := { t.regs with freqIn := t.regs.res.setWidth 64 } } = .next u ∧
      u.flags.err = false ∧ ∀ i < 5, cellRead u.mem (0x48 + i) = cellRead s.mem (0x48 + i))

/-- R155, R156: PAIR2I always succeeds, and its result is 100 times the first byte plus ten times the high and once
the low nibble of the second, the nibbles taken literally. -/
def Obligations.Pair2iComposesThePair : Prop :=
  ∀ s, s.flags.busy = false →
    ∃ w, exec .pair2i s = .next (succeeded
      { s with
        regs := withResult ((100 * (cellRead s.mem 0x50).toNat + 10 * ((cellRead s.mem 0x51).toNat / 16) +
          (cellRead s.mem 0x51).toNat % 16 : Nat)) 0 1 s.regs
        written := w })

/-- R157, R158 (the second marked as derived by the spec): INTERP over a table of 1 to MAX_POINTS strictly rising
breakpoints: clamped below the first and above the last, a breakpoint's own value on it, and inside segment k the
triple of R159. -/
def Obligations.InterpEvaluatesTheTable : Prop :=
  ∀ s, s.flags.busy = false → 1 ≤ s.regs.npoints.toNat → s.regs.npoints.toNat ≤ s.params.maxPoints →
    (∀ i, i + 1 < s.regs.npoints.toNat → ptRaw s i < ptRaw s (i + 1)) →
    let x := s.regs.xIn.toInt
    let n := s.regs.npoints.toNat
    let delivers := fun q r d =>
      ∃ w, exec .interp s = .next (succeeded { s with regs := withResult q r d s.regs, written := w })
    (x ≤ ptRaw s 0 → delivers (ptVal s 0) 0 1) ∧
    (ptRaw s (n - 1) ≤ x → delivers (ptVal s (n - 1)) 0 1) ∧
    (∀ k < n, x = ptRaw s k → delivers (ptVal s k) 0 1) ∧
    (∀ k, k + 1 < n → ptRaw s k < x → x < ptRaw s (k + 1) →
      delivers
        (ptVal s k + Int.fdiv ((x - ptRaw s k) * (ptVal s (k + 1) - ptVal s k)) (ptRaw s (k + 1) - ptRaw s k))
        (Int.fmod ((x - ptRaw s k) * (ptVal s (k + 1) - ptVal s k)) (ptRaw s (k + 1) - ptRaw s k))
        (ptRaw s (k + 1) - ptRaw s k))

/-- R159, R163: strictly inside segment k the delivered registers hold the exact rational: RES + RES_REM / RES_DEN is
y_k + N / D with 0 <= RES_REM < RES_DEN = D, nothing having overflowed, and RES lies between y_k and y_(k+1). -/
def Obligations.InterpResultIsExact : Prop :=
  ∀ s k, s.flags.busy = false → s.regs.npoints.toNat ≤ s.params.maxPoints →
    (∀ i, i + 1 < s.regs.npoints.toNat → ptRaw s i < ptRaw s (i + 1)) → k + 1 < s.regs.npoints.toNat →
    ptRaw s k < s.regs.xIn.toInt → s.regs.xIn.toInt < ptRaw s (k + 1) →
    ∃ t, exec .interp s = .next t ∧
      (t.regs.resDen.toNat : Int) = ptRaw s (k + 1) - ptRaw s k ∧ t.regs.resRem.toNat < t.regs.resDen.toNat ∧
      t.regs.res.toInt * t.regs.resDen.toNat + t.regs.resRem.toNat =
        ptVal s k * t.regs.resDen.toNat + (s.regs.xIn.toInt - ptRaw s k) * (ptVal s (k + 1) - ptVal s k) ∧
      min (ptVal s k) (ptVal s (k + 1)) ≤ t.regs.res.toInt ∧ t.regs.res.toInt ≤ max (ptVal s k) (ptVal s (k + 1))

/-- R160: INTERP's three table checks, in their order, each a failure that changes nothing else. -/
def Obligations.InterpChecksItsTable : Prop :=
  ∀ s, s.flags.busy = false →
    (s.regs.npoints.toNat = 0 → exec .interp s = .next (failed 3#4 0x01#8 s)) ∧
    (0 < s.regs.npoints.toNat → s.params.maxPoints < s.regs.npoints.toNat →
      exec .interp s = .next (failed 3#4 0x05#8 s)) ∧
    (∀ i, s.regs.npoints.toNat ≤ s.params.maxPoints → i + 1 < s.regs.npoints.toNat → ptRaw s (i + 1) ≤ ptRaw s i →
      exec .interp s = .next (failed 3#4 0x07#8 s))

/-- R161, R162 (the formula of R161 is marked "[from general knowledge, not in source]"): RESCALE always succeeds;
with equal old bounds it delivers NEW_MIN exactly; else RES + RES_REM / RES_DEN is the affine image of X_IN exactly,
RES_DEN the size of the old range, and nothing has overflowed. -/
def Obligations.RescaleIsTheAffineMap : Prop :=
  ∀ s, s.flags.busy = false →
    let d := s.regs.oldMax.toInt - s.regs.oldMin.toInt
    let n := (s.regs.xIn.toInt - s.regs.oldMin.toInt) * (s.regs.newMax.toInt - s.regs.newMin.toInt)
    ∃ t w, exec .rescale s = .next t ∧
      t = succeeded { s with
        regs := { s.regs with res := t.regs.res, resRem := t.regs.resRem, resDen := t.regs.resDen }, written := w } ∧
      (d = 0 → t.regs.res.toInt = s.regs.newMin.toInt ∧ t.regs.resRem.toNat = 0 ∧ t.regs.resDen.toNat = 1) ∧
      (d ≠ 0 → t.regs.resDen.toNat = d.natAbs ∧ t.regs.resRem.toNat < t.regs.resDen.toNat ∧
        t.regs.res.toInt * d.natAbs + t.regs.resRem.toNat = s.regs.newMin.toInt * d.natAbs + d.sign * n)

/-- RESCALE sends OLD_MIN to exactly NEW_MIN and OLD_MAX to exactly NEW_MAX, whichever way either range runs (R161,
whose formula the spec marks "[from general knowledge, not in source]"). -/
def Obligations.RescaleMeetsItsEndPoints : Prop :=
  ∀ s, s.flags.busy = false → s.regs.oldMin ≠ s.regs.oldMax →
    ∃ t, exec .rescale s = .next t ∧
      (s.regs.xIn = s.regs.oldMin → t.regs.res.toInt = s.regs.newMin.toInt ∧ t.regs.resRem = 0#33) ∧
      (s.regs.xIn = s.regs.oldMax → t.regs.res.toInt = s.regs.newMax.toInt ∧ t.regs.resRem = 0#33)

/-! ### Frame codec -/

/-- R180: PRELUT delivers in RES8 the repeat count of the exact value of tp_baud. -/
def Obligations.PrelutLooksUpTheLinkSpeed : Prop :=
  ∀ s, s.flags.busy = false →
    let b := s.env.tpBaud.toNat
    ∃ w, exec .prelut s = .next (succeeded
      { s with
        regs := { s.regs with
          res8 := if b = 115200 then 150#8 else if b = 57600 then 75#8 else if b = 38400 then 50#8
            else if b = 19200 then 25#8 else if b = 9600 then 13#8 else 7#8 }
        written := w })

/-- R182, R183, R101: FENC puts the frame of FDST, FSRC, OPC, PAY and PRE_CNT into TXBUF, every field at its byte
position, and its length into TXLEN, and changes no byte outside it; a wrong opcode length fails with
InvalidOpcode(OPC_LEN), then a payload over PAY_MAX with InvalidArgument(0x04). -/
def Obligations.FencBuildsTheFrame : Prop :=
  ∀ s, s.flags.busy = false → s.params.wf = true →
    (Memory.wf s.mem = true → lengthsAccepted s →
      ∃ m w, exec .fenc s = .next (succeeded
        { s with mem := m, regs := { s.regs with txLen := BitVec.ofNat 16 (frameLength s) }, written := w }) ∧
        frameLength s ≤ s.params.txMax ∧ holdsFrame m s.regs.fdst s.regs.fsrc s ∧
        sameOutside 0x2000 (frameLength s) s.mem m) ∧
    (s.regs.opcLen.toNat < 1 ∨ 4 < s.regs.opcLen.toNat →
      exec .fenc s = .next (failed 2#4 (s.regs.opcLen.setWidth 8) s)) ∧
    (1 ≤ s.regs.opcLen.toNat → s.regs.opcLen.toNat ≤ 4 → s.params.payMax < s.regs.payLen.toNat →
      exec .fenc s = .next (failed 3#4 0x04#8 s))

/-- R185 to R187: FDEC exposes bytes 2, 3 and RXLEN-2 of RXBUF; with RXLEN = 3 there is no byte 3, RPL_SRC_OK is 0 and
RPL_SRC unchanged; RXLEN over RX_MAX fails with InvalidArgument(0x0A), then RXLEN <= 2 with InvalidArgument(0x08). -/
def Obligations.FdecExposesTheFields : Prop :=
  ∀ s, s.flags.busy = false →
    (s.params.rxMax < s.regs.rxLen.toNat → exec .fdec s = .next (failed 3#4 0x0A#8 s)) ∧
    (s.regs.rxLen.toNat ≤ s.params.rxMax → s.regs.rxLen.toNat ≤ 2 →
      exec .fdec s = .next (failed 3#4 0x08#8 s)) ∧
    (s.regs.rxLen.toNat ≤ s.params.rxMax → s.regs.rxLen.toNat = 3 →
      ∃ w, exec .fdec s = .next (succeeded
        { s with
          regs := { s.regs with rplDst := cellRead s.mem 0x3002, rplSt := cellRead s.mem 0x3001 }
          flags := { s.flags with rplSrcOk := false }
          written := w })) ∧
    (s.regs.rxLen.toNat ≤ s.params.rxMax → 4 ≤ s.regs.rxLen.toNat →
      ∃ w, exec .fdec s = .next (succeeded
        { s with
          regs := { s.regs with
            rplDst := cellRead s.mem 0x3002, rplSrc := cellRead s.mem 0x3003
            rplSt := cellRead s.mem (0x3000 + (s.regs.rxLen.toNat - 2)) }
          flags := { s.flags with rplSrcOk := true }
          written := w }))

/-! ### The exchange, step by step -/

/-- R201: XCHG's pre-I/O checks in their order, each a failure that changes nothing else. -/
def Obligations.XchgChecksBeforeAnyIo : Prop :=
  ∀ s, s.flags.busy = false →
    (s.flags.svalid = false → exec .xchg s = .next (failed 3#4 0x02#8 s)) ∧
    (s.flags.svalid = true → (s.regs.opcLen.toNat < 1 ∨ 4 < s.regs.opcLen.toNat) →
      exec .xchg s = .next (failed 2#4 (s.regs.opcLen.setWidth 8) s)) ∧
    (s.flags.svalid = true → 1 ≤ s.regs.opcLen.toNat → s.regs.opcLen.toNat ≤ 4 →
      s.params.payMax < s.regs.payLen.toNat → exec .xchg s = .next (failed 3#4 0x04#8 s))

/-- R202, R203: with a Session and accepted lengths XCHG builds the frame to S_XCVR from S_CTRL into TXBUF, clears the
completion flags, sets BUSY, and stands at WRITE with tx_idx = 0; FDST and FSRC are not used, no other byte, register
or flag changes, and nothing has been sent. -/
def Obligations.XchgBuildsAndStartsTheWrite : Prop :=
  ∀ s, s.flags.busy = false → s.params.wf = true → Memory.wf s.mem = true → s.flags.svalid = true →
    lengthsAccepted s →
    ∃ m, exec .xchg s = .next
        { s with
          mem := m
          regs := { s.regs with txLen := BitVec.ofNat 16 (frameLength s) }
          seq := { s.seq with fsm := .write, txIdx := 0#16 }
          flags := { s.flags with busy := true, done := false, err := false, errCode := 0#4, errInfo := 0#8 } } ∧
      frameLength s ≤ s.params.txMax ∧ holdsFrame m s.session.xcvr s.session.ctrl s ∧
      sameOutside 0x2000 (frameLength s) s.mem m

/-- R70, R204, R221 (rows of WRITE): TxAccept hands over the byte at tx_idx; after the last byte ATTEMPTS and RXLEN
are 0 and the first read has begun; TxError ends the exchange in IoError(0x01); with neither the engine waits. -/
def Obligations.WriteStepsHandOverBytes : Prop :=
  ∀ s p rest, s.seq.fsm = .write → nextTurn s.env = (.edge p, rest) → s.seq.txIdx.toNat < s.regs.txLen.toNat →
    1 ≤ s.session.maxAtt.toNat →
    (p.txErr = true → step s = .next (failed 8#4 0x01#8 (s.withSchedule rest))) ∧
    (p.txErr = false → p.txReady = false → step s = .next (s.withSchedule rest)) ∧
    (accepting p → s.seq.txIdx.toNat + 1 < s.regs.txLen.toNat →
      step s = .next
        { s with
          seq := { s.seq with txIdx := s.seq.txIdx + 1#16 }
          env := { s.env with
            schedule := rest
            wireOut := s.env.wireOut ++ [cellRead s.mem (0x2000 + s.seq.txIdx.toNat)] } }) ∧
    (accepting p → s.seq.txIdx.toNat + 1 = s.regs.txLen.toNat →
      step s = .next
        { s with
          seq := { fsm := .read, txIdx := s.regs.txLen, attempts := 0#8 }
          regs := { s.regs with rxLen := 0#16 }
          env := { s.env with
            schedule := rest
            wireOut := s.env.wireOut ++ [cellRead s.mem (0x2000 + s.seq.txIdx.toNat)] } })

/-- R73: a byte offered to a read with room for it is taken and appended at RXLEN, no other byte changing; C_TERM,
whatever its position, ends the read. -/
def Obligations.ReceivedBytesAreAppended : Prop :=
  ∀ s p b rest queue, s.seq.fsm = .read → nextTurn s.env = (.edge p, rest) → offering p →
    s.env.rxQueue = b :: queue → s.params.wf = true → Memory.wf s.mem = true →
    s.regs.rxLen.toNat < s.params.rxMax →
    ∃ m w, step s = .next
        { s with
          mem := m
          regs := { s.regs with rxLen := BitVec.ofNat 16 (s.regs.rxLen.toNat + 1) }
          seq := { s.seq with fsm := if b = 0xFD#8 then .classify else .read }
          env := { s.env with schedule := rest, rxQueue := queue }
          written := w } ∧
      cellRead m (0x3000 + s.regs.rxLen.toNat) = b ∧ sameOutside (0x3000 + s.regs.rxLen.toNat) 1 s.mem m

/-- R103, R73: each of the four wire constants, met by a read with room for it, is appended at RXLEN; only C_TERM ends
the read. (That the meaning of a wire constant is its receipt is the model's reading: notes/assumptions/7.md.) -/
def Obligations.WireConstantsAreReceived : Prop :=
  ∀ i s, i.wf .wire = true → s.seq.fsm = .read → s.params.wf = true → Memory.wf s.mem = true →
    s.regs.rxLen.toNat < s.params.rxMax →
    ∃ m w, exec i s = .next
        { s with
          mem := m
          regs := { s.regs with rxLen := BitVec.ofNat 16 (s.regs.rxLen.toNat + 1) }
          seq := { s.seq with fsm := if i = .cTerm then .classify else .read }
          written := w } ∧
      cellRead m (0x3000 + s.regs.rxLen.toNat) = encode i ∧ sameOutside (0x3000 + s.regs.rxLen.toNat) 1 s.mem m

/-- R71: outside a read nothing the Transport holds is consumed: no step in IDLE, WRITE or CLASSIFY takes a byte from
its queue, which changes only by the byte that arrives, if one does; a byte that arrives, in any state, is put behind all
that the Transport holds, and nothing else changes; and a wire constant met outside a read stays with the Transport, the
block unchanged. (The Transport's queue and the receipt of a wire constant as its meaning are the model's:
notes/assumptions/7.md and 8.md.) -/
def Obligations.BytesAreHeldOutsideARead : Prop :=
  (∀ s t, s.seq.fsm ≠ .read → step s = .next t →
    t.env.rxQueue = s.env.rxQueue ∨
      ∃ b, (nextTurn s.env).1 = .arrive b ∧ t.env.rxQueue = s.env.rxQueue ++ [b]) ∧
  (∀ s b rest, nextTurn s.env = (.arrive b, rest) →
    step s = .next { s with env := { s.env with schedule := rest, rxQueue := s.env.rxQueue ++ [b] } }) ∧
  (∀ i s, i.wf .wire = true → s.seq.fsm ≠ .read →
    exec i s = .next (s.withQueue (encode i :: s.env.rxQueue)))

/-- R74, R75, R76: how a read ends other than by C_TERM: a timeout delivers what has arrived to classification,
RxError is IoError(0x02), and a byte that finds RXBUF full is lost in IoError(0x03). -/
def Obligations.ReadsEndOtherwise : Prop :=
  ∀ s p rest, s.seq.fsm = .read → nextTurn s.env = (.edge p, rest) →
    (timingOut p →
      step s = .next { s.withSchedule rest with seq := { s.seq with fsm := .classify } }) ∧
    (p.rxErr = true → step s = .next (failed 8#4 0x02#8 (s.withSchedule rest))) ∧
    (∀ b queue, offering p → s.env.rxQueue = b :: queue → s.regs.rxLen.toNat = s.params.rxMax →
      step s = .next (failed 8#4 0x03#8 ((s.withSchedule rest).withQueue queue)))

/-- R77: of several events presented in one cycle TxError comes before TxAccept, RxError before RxByte, and RxByte
before RxTimeout; the engine takes that one event in the cycle (notes/assumptions/8.md). -/
def Obligations.SimultaneousEventsAreOrdered : Prop :=
  (∀ s p, s.seq.fsm = .write → p.txErr = true → edgeEvent p s = some .txError) ∧
  (∀ s p, s.seq.fsm = .read → p.rxErr = true → edgeEvent p s = some .rxError) ∧
  (∀ s p b queue, s.seq.fsm = .read → p.rxErr = false → p.rxValid = true → s.env.rxQueue = b :: queue →
    edgeEvent p s = some (.rxByte b))

/-- R210: a candidate byte-identical to the outbound frame is dropped, ATTEMPTS unchanged, and a new read begins. -/
def Obligations.EchoesAreDiscardedFree : Prop :=
  ∀ s p rest, s.seq.fsm = .classify → nextTurn s.env = (.edge p, rest) →
    s.seq.attempts.toNat < s.session.maxAtt.toNat → candidate s = txFrame s →
    step s = .next
      { s.withSchedule rest with seq := { s.seq with fsm := .read }, regs := { s.regs with rxLen := 0#16 } }

/-- R212, R217: a candidate of length at most 2 (no echo is) consumes one attempt; with budget left a new read begins,
else the exchange ends in CommandTimeout(S_MAXATT), RXLEN kept. -/
def Obligations.SilenceConsumesAnAttempt : Prop :=
  ∀ s p rest, s.seq.fsm = .classify → nextTurn s.env = (.edge p, rest) →
    6 ≤ s.regs.txLen.toNat → s.regs.rxLen.toNat ≤ 2 →
    (s.seq.attempts.toNat + 1 < s.session.maxAtt.toNat →
      step s = .next
        { s.withSchedule rest with
          seq := { s.seq with fsm := .read, attempts := s.seq.attempts + 1#8 }
          regs := { s.regs with rxLen := 0#16 } }) ∧
    (s.seq.attempts.toNat + 1 = s.session.maxAtt.toNat →
      step s = .next (failed 7#4 s.session.maxAtt
        { s.withSchedule rest with seq := { s.seq with attempts := s.session.maxAtt } }))

/-- R213, R214: a candidate of length 3, or one not from the transceiver to the controller, that is no echo, is
dropped: ATTEMPTS unchanged, its positional fields left in RPL_DST, RPL_SRC (when present) and RPL_ST, a new read
begun. -/
def Obligations.ForeignTrafficIsDiscardedFree : Prop :=
  ∀ s p rest, s.seq.fsm = .classify → nextTurn s.env = (.edge p, rest) →
    s.seq.attempts.toNat < s.session.maxAtt.toNat → candidate s ≠ txFrame s →
    (s.regs.rxLen.toNat = 3 →
      ∃ w, step s = .next
        { s.withSchedule rest with
          seq := { s.seq with fsm := .read }
          regs := { s.regs with rxLen := 0#16, rplDst := cellRead s.mem 0x3002, rplSt := cellRead s.mem 0x3001 }
          flags := { s.flags with rplSrcOk := false }
          written := w }) ∧
    (4 ≤ s.regs.rxLen.toNat →
      (cellRead s.mem 0x3002 ≠ s.session.ctrl ∨ cellRead s.mem 0x3003 ≠ s.session.xcvr) →
      ∃ w, step s = .next
        { s.withSchedule rest with
          seq := { s.seq with fsm := .read }
          regs := { s.regs with
            rxLen := 0#16, rplDst := cellRead s.mem 0x3002, rplSrc := cellRead s.mem 0x3003
            rplSt := cellRead s.mem (0x3000 + (s.regs.rxLen.toNat - 2)) }
          flags := { s.flags with rplSrcOk := true }
          written := w })

/-- R215, R216: a matching candidate that is no echo ends the exchange: in CommandRejected(0xFA) when its
second-to-last byte is C_NG, whatever the budget, else in success with the whole candidate kept as the Reply. -/
def Obligations.MatchingRepliesEndTheExchange : Prop :=
  ∀ s p rest, s.seq.fsm = .classify → nextTurn s.env = (.edge p, rest) → candidate s ≠ txFrame s →
    4 ≤ s.regs.rxLen.toNat → cellRead s.mem 0x3002 = s.session.ctrl → cellRead s.mem 0x3003 = s.session.xcvr →
    ∃ w,
      let st := cellRead s.mem (0x3000 + (s.regs.rxLen.toNat - 2))
      let t := { s.withSchedule rest with
        regs := { s.regs with rplDst := s.session.ctrl, rplSrc := s.session.xcvr, rplSt := st }
        flags := { s.flags with rplSrcOk := true }
        written := w }
      (st = 0xFA#8 → step s = .next (failed 6#4 0xFA#8 t)) ∧
      (st ≠ 0xFA#8 → step s = .next (succeeded t))

/-! ### The exchange, over many steps -/

/-- R70, R82, R203, R204: from the start of WRITE a Transport that accepts every byte receives exactly the TXLEN bytes
of the frame, in index order, and nothing else changes but the sequencing: the first read has then begun, with
ATTEMPTS and RXLEN 0 and no received byte consumed. -/
def Obligations.TheWholeFrameIsWrittenInOrder : Prop :=
  ∀ (s : State) p rest, s.seq.fsm = .write → s.seq.txIdx = 0#16 → 1 ≤ s.regs.txLen.toNat →
    1 ≤ s.session.maxAtt.toNat → accepting p → s.env.schedule = edges s.regs.txLen.toNat p ++ rest →
    Host.Core.run Sys2Proof.core s.regs.txLen.toNat s = .next
      { s with
        seq := { fsm := .read, txIdx := s.regs.txLen, attempts := 0#8 }
        regs := { s.regs with rxLen := 0#16 }
        env := { s.env with schedule := rest, wireOut := s.env.wireOut ++ txFrame s } }

/-- R72, R73: a read that begins with an empty buffer and is offered the bytes of a candidate ended by its only C_TERM
ends at that byte, with exactly those bytes as the candidate and the bytes behind them still with the Transport;
nothing else of the block has changed. -/
def Obligations.AReadDeliversTheCandidate : Prop :=
  ∀ (s : State) p c queue rest, s.seq.fsm = .read → s.regs.rxLen = 0#16 → s.params.wf = true →
    Memory.wf s.mem = true → terminated s c → offering p → s.env.rxQueue = c ++ queue →
    s.env.schedule = edges c.length p ++ rest →
    ∃ m w, Host.Core.run Sys2Proof.core c.length s = .next
        { s with
          seq := { s.seq with fsm := .classify }
          regs := { s.regs with rxLen := BitVec.ofNat 16 c.length }
          mem := m
          env := { s.env with schedule := rest, rxQueue := queue }
          written := w } ∧
      cellReadSeq m 0x3000 c.length = c ∧ sameOutside 0x3000 c.length s.mem m

/-- R217 (and 95_test_vectors.md S6): if every read from here on times out with nothing received, XCHG ends in
CommandTimeout(S_MAXATT) after exactly the attempts that were left, and no sooner: after any smaller number `j` of silent
reads it is at a new read, still busy, with ATTEMPTS grown by `j`. -/
def Obligations.SilenceExhaustsTheBudget : Prop :=
  ∀ (s : State) p q rest, s.seq.fsm = .read → s.regs.rxLen = 0#16 → 6 ≤ s.regs.txLen.toNat →
    s.seq.attempts.toNat < s.session.maxAtt.toNat → timingOut p →
    s.env.schedule = silentReads (s.session.maxAtt.toNat - s.seq.attempts.toNat) p q ++ rest →
    Host.Core.run Sys2Proof.core (2 * (s.session.maxAtt.toNat - s.seq.attempts.toNat)) s = .next
      (failed 7#4 s.session.maxAtt
        { s.withSchedule rest with seq := { s.seq with attempts := s.session.maxAtt } }) ∧
    ∀ j < s.session.maxAtt.toNat - s.seq.attempts.toNat,
      ∃ t : State, Host.Core.run Sys2Proof.core (2 * j) s = .next t ∧ t.seq.fsm = .read ∧
        t.seq.attempts.toNat = s.seq.attempts.toNat + j ∧ t.flags = s.flags

/-- R220, R285: echoes and foreign candidates, however many, leave XCHG in its loop with its whole budget: after all
of them a new read has begun, BUSY is still 1 and ATTEMPTS is unchanged. And an environment that keeps supplying them
keeps XCHG in its loop for ever: however many steps are taken BUSY is 1 and ATTEMPTS unchanged, and each time round a new
read begins. (That such an environment is a cycle of turns is the model's: notes/assumptions/6.md.) -/
def Obligations.FreeDiscardsNeverEndTheExchange : Prop :=
  ∀ (s : State) p cs, s.seq.fsm = .read → s.regs.rxLen = 0#16 → s.flags.busy = true →
    s.params.wf = true → Memory.wf s.mem = true → s.seq.attempts.toNat < s.session.maxAtt.toNat →
    s.regs.txLen.toNat ≤ s.params.txMax → offering p → (∀ c ∈ cs, terminated s c ∧ freeDiscard s c) →
    (∀ queue rest, s.env.rxQueue = cs.flatten ++ queue → s.env.schedule = receiveAll cs p ++ rest →
      ∃ t : State, Host.Core.run Sys2Proof.core (receiveAll cs p).length s = .next t ∧ t.seq = s.seq ∧
        t.flags.busy = true ∧ t.flags.done = s.flags.done ∧ t.regs.rxLen = 0#16 ∧ t.session = s.session ∧
        txFrame t = txFrame s ∧ t.env.rxQueue = queue ∧ t.env.schedule = rest ∧ t.env.wireOut = s.env.wireOut) ∧
    (cs ≠ [] → s.env.rxQueue = [] → s.env.schedule = [] → s.env.cycle = supply cs p →
      (∀ k, ∃ t : State, Host.Core.run Sys2Proof.core k s = .next t ∧ t.flags.busy = true ∧
        t.seq.attempts = s.seq.attempts) ∧
      (∀ m, ∃ t : State, Host.Core.run Sys2Proof.core (m * (supply cs p).length) s = .next t ∧ t.seq = s.seq ∧
        t.regs.rxLen = 0#16 ∧ txFrame t = txFrame s ∧ t.env.rxQueue = [] ∧ t.env.schedule = []))

/-- R200, R224 (and 95_test_vectors.md S3): a whole exchange: the CMD write of XCHG, the frame accepted byte by byte,
its echo received, then a matching reply that is not NG. It succeeds with ATTEMPTS = 0, the Reply in RXBUF and its
fields exposed, the frame sent once, and nothing behind the reply consumed. -/
def Obligations.EchoThenReplySucceeds : Prop :=
  ∀ (s : State) p r queue rest, s.flags.busy = false → s.params.wf = true → Memory.wf s.mem = true →
    s.flags.svalid = true → 1 ≤ s.session.maxAtt.toNat → lengthsAccepted s → accepting p → offering p →
    let f := builtFrame s.session.xcvr s.session.ctrl s
    terminatorOnlyLast f = true → terminated s r → r ≠ f → 4 ≤ r.length → r.getD 2 0#8 = s.session.ctrl →
    r.getD 3 0#8 = s.session.xcvr → r.getD (r.length - 2) 0#8 ≠ 0xFA#8 →
    s.env.rxQueue = f ++ r ++ queue →
    s.env.schedule = .host (.write 0 0x0C#66) :: (edges (f.length + (f.length + 1) + (r.length + 1)) p ++ rest) →
    ∃ t : State, Host.Core.run Sys2Proof.core (1 + (f.length + (f.length + 1) + (r.length + 1))) s = .next t ∧
      t.seq.fsm = .idle ∧ t.flags.busy = false ∧ t.flags.done = true ∧ t.flags.err = false ∧
      t.seq.attempts = 0#8 ∧ candidate t = r ∧ t.regs.rplDst = s.session.ctrl ∧ t.regs.rplSrc = s.session.xcvr ∧
      t.regs.rplSt = r.getD (r.length - 2) 0#8 ∧ t.flags.rplSrcOk = true ∧ t.session = s.session ∧
      t.env.wireOut = s.env.wireOut ++ f ∧ t.env.rxQueue = queue ∧ t.env.schedule = rest

/-- R190: a frame encoded without preamble, with no byte before its last equal to C_TERM, read back byte by byte, is
one candidate whose fields are its own addresses and whose status byte is the last byte of its payload, or of its
opcode when the payload is empty; with a preamble of two or more both addresses read as 0xFE. -/
def Obligations.EncodedFramesReadBack : Prop :=
  (∀ (s : State) dst src opc pay p queue rest, s.seq.fsm = .read → s.regs.rxLen = 0#16 → s.params.wf = true →
    Memory.wf s.mem = true → 1 ≤ opc.length → opc.length ≤ 4 → pay.length ≤ s.params.payMax →
    (0xFD#8 : Byte) ∉ dst :: src :: (opc ++ pay) → offering p →
    let c := frameEncode dst src opc pay 0
    s.env.rxQueue = c ++ queue → s.env.schedule = edges c.length p ++ rest →
    ∃ t : State, Host.Core.run Sys2Proof.core c.length s = .next t ∧ t.seq.fsm = .classify ∧ candidate t = c ∧
      (setFields (candidate t) t).regs.rplDst = dst ∧ (setFields (candidate t) t).regs.rplSrc = src ∧
      (setFields (candidate t) t).flags.rplSrcOk = true ∧
      (setFields (candidate t) t).regs.rplSt = (opc ++ pay).getLastD 0#8) ∧
  (∀ s dst src opc pay n, 2 ≤ n →
    (setFields (frameEncode dst src opc pay n) s).regs.rplDst = 0xFE#8 ∧
    (setFields (frameEncode dst src opc pay n) s).regs.rplSrc = 0xFE#8)

/-! ### Invariants and rules of the whole machine -/

/-- The state right after reset satisfies the invariants (R270; the parameters it starts with are the spec's test
vectors' defaults, the model's choice: notes/assumptions/4.md). -/
def Obligations.TheInvariantsHoldAtReset : Prop :=
  Invariant State.reset ∧ FrameCoherent State.reset ∧ CandidateFramed State.reset

/-- Every step, whatever the host and the Transport do, keeps the invariant of `Safety.Invariant`: BUSY exactly while
XCHG is at a step, a budget of at least 1 never exceeded, no failure code above 8, a candidate and a frame that fit
their buffers, and memories in canonical form. -/
def Obligations.EveryStepKeepsTheInvariant : Prop :=
  ∀ s t, Invariant s → step s = .next t → Invariant t

/-- R84, R82: while XCHG runs, TXBUF stays the frame its own Build wrote from the Session and the operand registers,
and what the Transport has accepted ends in exactly the bytes of it below tx_idx, then in all of it. (The record of
what it has accepted is the model's: notes/assumptions/5.md.) -/
def Obligations.EveryStepKeepsTheFrame : Prop :=
  ∀ s t, Invariant s → FrameCoherent s → step s = .next t → FrameCoherent t

/-- R73, R74: a candidate in progress never holds a C_TERM, a finished one none before its last byte. -/
def Obligations.EveryStepKeepsTheFraming : Prop :=
  ∀ s t, Invariant s → CandidateFramed s → step s = .next t → CandidateFramed t

/-- R270, R271: a reset, whatever the block was doing, leaves every register R270 gives a value at that value, the
block idle with no output raised, and the Transport and the parameters as they were. (That h_rdata and the record of
bytes sent also stay is the model's: notes/assumptions/13.md.) -/
def Obligations.ResetTakesTheResetState : Prop :=
  ∀ s rest, nextTurn s.env = (.reset, rest) →
    ∃ t, step s = .next t ∧ t.seq.fsm = .idle ∧ t.seq.attempts = 0#8 ∧ t.seq.txIdx = 0#16 ∧ statusWord t = 0#16 ∧
      t.flags.errInfo = 0#8 ∧ t.regs.txt0Len = 0#8 ∧ t.regs.txt1Len = 0#8 ∧ t.regs.npoints = 0#8 ∧
      t.regs.opcLen = 0#3 ∧ t.regs.payLen = 0#16 ∧ t.regs.preCnt = 0#8 ∧ t.regs.txLen = 0#16 ∧
      t.regs.rxLen = 0#16 ∧ txValid t = false ∧ rxReady t = false ∧ rdActive t = false ∧ donePin t = false ∧
      errPin t = false ∧ t.params = s.params ∧ t.env = { s.env with schedule := rest }

/-- R26, R289, R81: after any step but a reset DROPPED is 1 exactly when it was 1 before or the step was a host write
while BUSY = 1; so only such a write sets it, every such write does, and only reset clears it. -/
def Obligations.DroppedRecordsABreach : Prop :=
  ∀ s t, step s = .next t → ¬ resetTurn s →
    (t.flags.dropped = true ↔ s.flags.dropped = true ∨
      (s.flags.busy = true ∧ ∃ n v, (nextTurn s.env).1 = .host (.write n v)))

/-- A turn inside the host's duties (R277) never stops the machine and never sets DROPPED. (The machine's only stop is
the model's: notes/assumptions/11.md.) -/
def Obligations.DutifulTurnsNeverStop : Prop :=
  ∀ s, dutifulTurn s = true → ∃ t, step s = .next t ∧ (t.flags.dropped = true → s.flags.dropped = true)

/-- R25: no step but a reset changes ATTEMPTS, save two: the step that completes XCHG's write (the last byte of the
frame accepted, with no TxError) sets it to 0, and the classification of a candidate of at most 2 bytes that is no echo
adds 1. -/
def Obligations.AttemptsCountOnlySilence : Prop :=
  ∀ s t, step s = .next t → ¬ resetTurn s →
    t.seq.attempts = s.seq.attempts ∨
    (s.seq.fsm = .write ∧ s.seq.txIdx.toNat + 1 = s.regs.txLen.toNat ∧
      (∃ p, (nextTurn s.env).1 = .edge p ∧ accepting p) ∧ t.seq.attempts = 0#8) ∨
    (s.seq.fsm = .classify ∧ (∃ p, (nextTurn s.env).1 = .edge p) ∧ s.regs.rxLen.toNat ≤ 2 ∧
      candidate s ≠ txFrame s ∧ t.seq.attempts = s.seq.attempts + 1#8)

/-- R63: TXBUF and TXLEN are written only by FENC and by the build of XCHG: no other turn but a reset changes either.
-/
def Obligations.TxbufIsWrittenOnlyByBuild : Prop :=
  ∀ s t, s.params.wf = true → step s = .next t → ¬ resetTurn s → ¬ commandTurn .fenc s → ¬ commandTurn .xchg s →
    t.regs.txLen = s.regs.txLen ∧ ∀ j < s.params.txMax, cellRead t.mem (0x2000 + j) = cellRead s.mem (0x2000 + j)

/-- R26 (bit 9; 90_conflicts.md C16): RPL_SRC_OK, RPL_DST, RPL_SRC and RPL_ST are written only by FDEC and by a
classification of XCHG: no other turn but a reset changes any of them. -/
def Obligations.ReplyFieldsAreWrittenOnlyByFields : Prop :=
  ∀ s t, step s = .next t → ¬ resetTurn s → ¬ commandTurn .fdec s → s.seq.fsm ≠ .classify →
    t.flags.rplSrcOk = s.flags.rplSrcOk ∧ t.regs.rplDst = s.regs.rplDst ∧ t.regs.rplSrc = s.regs.rplSrc ∧
      t.regs.rplSt = s.regs.rplSt
end

