-- ==== Sys2Proof/Laws/Memory.lean ====
section
/-! SUPPORT. The laws of the cells: a read after a write, the sequences, and the canonical form every operation keeps. -/

namespace Sys2Proof.Machine

open Sys2Proof

variable {w : Nat}

/-! ### One element -/

@[simp] theorem cellRead_nil (a : Nat) : cellRead ([] : List (Nat × BitVec w)) a = 0#w := rfl

theorem cellsWf_tail {k : Nat} {x : BitVec w} {m : List (Nat × BitVec w)} (h : cellsWf ((k, x) :: m) = true) :
    cellsWf m = true := by
  cases m with
  | nil => rfl
  | cons p rest => simp only [cellsWf, Bool.and_eq_true] at h; exact h.2

theorem cellsWf_head_ne_zero {k : Nat} {x : BitVec w} {m : List (Nat × BitVec w)} (h : cellsWf ((k, x) :: m) = true) :
    x ≠ 0#w := by
  cases m with
  | nil => simpa [cellsWf] using h
  | cons p rest => simp only [cellsWf, Bool.and_eq_true, bne_iff_ne] at h; exact h.1.2

/-- In canonical form nothing is listed at or below an address smaller than the first entry's. -/
theorem cellRead_below {k : Nat} {x : BitVec w} {m : List (Nat × BitVec w)} {a : Nat}
    (h : cellsWf ((k, x) :: m) = true) (hlt : a < k) : cellRead ((k, x) :: m) a = 0#w := by
  induction m generalizing k x with
  | nil => simp [cellRead, Nat.ne_of_gt hlt]
  | cons p rest ih =>
    have hk : k < p.1 := by simp only [cellsWf, Bool.and_eq_true, decide_eq_true_eq] at h; exact h.1.1
    have := ih (cellsWf_tail h) (Nat.lt_trans hlt hk)
    simp [cellRead, Nat.ne_of_gt hlt] at this ⊢
    exact this

theorem cellRead_tail_self {k : Nat} {x : BitVec w} {m : List (Nat × BitVec w)} (h : cellsWf ((k, x) :: m) = true) :
    cellRead m k = 0#w := by
  cases m with
  | nil => rfl
  | cons p rest =>
    have hk : k < p.1 := by simp only [cellsWf, Bool.and_eq_true, decide_eq_true_eq] at h; exact h.1.1
    exact cellRead_below (cellsWf_tail h) hk

/-- A read after a write to the same element gives the value written. -/
theorem cellRead_cellWrite_same {m : List (Nat × BitVec w)} (h : cellsWf m = true) (a : Nat) (v : BitVec w) :
    cellRead (cellWrite m a v) a = v := by
  induction m with
  | nil => unfold cellWrite; split <;> simp_all [cellRead]
  | cons p rest ih =>
    obtain ⟨k, x⟩ := p
    unfold cellWrite
    split
    · next hlt => simp [cellRead, Nat.ne_of_lt hlt, ih (cellsWf_tail h)]
    · split
      · next he =>
        subst he
        split
        · next hv => rw [hv]; exact cellRead_tail_self h
        · simp [cellRead]
      · split
        · next hv => rw [hv]; exact cellRead_below h (by omega)
        · simp [cellRead]

/-- A write leaves every other element alone. -/
theorem cellRead_cellWrite_ne (m : List (Nat × BitVec w)) {a b : Nat} (v : BitVec w) (hne : b ≠ a) :
    cellRead (cellWrite m a v) b = cellRead m b := by
  induction m with
  | nil => unfold cellWrite; split <;> simp [cellRead, Ne.symm hne]
  | cons p rest ih =>
    obtain ⟨k, x⟩ := p
    unfold cellWrite
    split
    · simp [cellRead, ih]
    · split
      · next he => subst he; split <;> simp [cellRead, Ne.symm hne]
      · split <;> simp [cellRead, Ne.symm hne]

theorem cellRead_cellWrite {m : List (Nat × BitVec w)} (h : cellsWf m = true) (a b : Nat) (v : BitVec w) :
    cellRead (cellWrite m a v) b = if b = a then v else cellRead m b := by
  split
  · next he => rw [he]; exact cellRead_cellWrite_same h a v
  · next hne => exact cellRead_cellWrite_ne m v hne

/-! ### The canonical form -/

/-- The first address of the cells after a write is the written one or the first one before. -/
theorem cellsWf_cons {k : Nat} {x : BitVec w} {m : List (Nat × BitVec w)} (hx : x ≠ 0#w) (hm : cellsWf m = true)
    (hlt : ∀ p ∈ m.head?, k < p.1) : cellsWf ((k, x) :: m) = true := by
  cases m with
  | nil => simpa [cellsWf] using hx
  | cons p rest =>
    simp only [cellsWf, Bool.and_eq_true, decide_eq_true_eq, bne_iff_ne]
    exact ⟨⟨hlt p (by simp), hx⟩, hm⟩

theorem cellsWf_head_lt {k : Nat} {x : BitVec w} {m : List (Nat × BitVec w)} (h : cellsWf ((k, x) :: m) = true) :
    ∀ p ∈ m.head?, k < p.1 := by
  cases m with
  | nil => simp
  | cons p rest =>
    simp only [cellsWf, Bool.and_eq_true, decide_eq_true_eq] at h
    simpa using h.1.1

theorem cellWrite_head_lt {m : List (Nat × BitVec w)} {k a : Nat} (v : BitVec w) (hm : cellsWf m = true)
    (hlt : ∀ p ∈ m.head?, k < p.1) (ha : k < a) : ∀ p ∈ (cellWrite m a v).head?, k < p.1 := by
  cases m with
  | nil => unfold cellWrite; split <;> simp [ha]
  | cons q rest =>
    obtain ⟨j, y⟩ := q
    have hj : k < j := hlt (j, y) (by simp)
    unfold cellWrite
    split
    · simpa using hj
    · split
      · split
        · intro p hp
          exact Nat.lt_trans hj (cellsWf_head_lt hm p hp)
        · simpa using ha
      · split <;> simp [hj, ha]

/-- A write keeps the canonical form. -/
theorem cellsWf_cellWrite {m : List (Nat × BitVec w)} (h : cellsWf m = true) (a : Nat) (v : BitVec w) :
    cellsWf (cellWrite m a v) = true := by
  induction m with
  | nil => unfold cellWrite; split <;> simp_all [cellsWf]
  | cons p rest ih =>
    obtain ⟨k, x⟩ := p
    have hr := cellsWf_tail h
    unfold cellWrite
    split
    · next hlt =>
      exact cellsWf_cons (cellsWf_head_ne_zero h) (ih hr) (cellWrite_head_lt v hr (cellsWf_head_lt h) hlt)
    · split
      · next he =>
        subst he
        split
        · exact hr
        · next hv => exact cellsWf_cons hv hr (cellsWf_head_lt h)
      · split
        · exact h
        · next hv => exact cellsWf_cons hv h (by intro p hp; simp at hp; subst hp; simp; omega)

/-- A sequence of writes keeps the canonical form. -/
theorem cellsWf_cellWriteSeq {m : List (Nat × BitVec w)} (h : cellsWf m = true) (a : Nat) (vs : List (BitVec w)) :
    cellsWf (cellWriteSeq m a vs) = true := by
  induction vs generalizing m a with
  | nil => exact h
  | cons v rest ih => exact ih (cellsWf_cellWrite h a v) (a + 1)

/-! ### Sequences -/

/-- A sequence of writes leaves every element outside its range alone. -/
theorem cellRead_cellWriteSeq_outside (m : List (Nat × BitVec w)) {a b : Nat} (vs : List (BitVec w))
    (h : b < a ∨ a + vs.length ≤ b) : cellRead (cellWriteSeq m a vs) b = cellRead m b := by
  induction vs generalizing m a with
  | nil => rfl
  | cons v rest ih =>
    simp only [List.length_cons] at h
    rw [cellWriteSeq, ih _ (by omega), cellRead_cellWrite_ne m v (by omega)]

/-- A read inside the range of a sequence of writes gives the value listed there. -/
theorem cellRead_cellWriteSeq_inside {m : List (Nat × BitVec w)} (hm : cellsWf m = true) {a i : Nat}
    (vs : List (BitVec w)) (h : i < vs.length) : cellRead (cellWriteSeq m a vs) (a + i) = vs[i] := by
  induction vs generalizing m a i with
  | nil => simp at h
  | cons v rest ih =>
    cases i with
    | zero =>
      rw [cellWriteSeq, cellRead_cellWriteSeq_outside _ _ (by omega)]
      exact cellRead_cellWrite_same hm a v
    | succ j =>
      rw [cellWriteSeq, show a + (j + 1) = a + 1 + j by omega]
      simpa using ih (cellsWf_cellWrite hm a v) (by simpa using h)

@[simp] theorem cellReadSeq_length (m : List (Nat × BitVec w)) (a n : Nat) : (cellReadSeq m a n).length = n := by
  simp [cellReadSeq]

@[simp] theorem cellReadSeq_getElem (m : List (Nat × BitVec w)) (a n i : Nat) (h : i < (cellReadSeq m a n).length) :
    (cellReadSeq m a n)[i] = cellRead m (a + i) := by
  simp [cellReadSeq]

/-- The elements read after a sequence of writes to them are the values written. -/
theorem cellReadSeq_cellWriteSeq {m : List (Nat × BitVec w)} (hm : cellsWf m = true) (a : Nat) (vs : List (BitVec w)) :
    cellReadSeq (cellWriteSeq m a vs) a vs.length = vs := by
  apply List.ext_getElem (by simp)
  intro i h _
  rw [cellReadSeq_getElem]
  exact cellRead_cellWriteSeq_inside hm vs (by simpa using h)

/-- Elements two memories agree on read alike. -/
theorem cellReadSeq_congr {m m' : List (Nat × BitVec w)} {a n : Nat}
    (h : ∀ i < n, cellRead m (a + i) = cellRead m' (a + i)) : cellReadSeq m a n = cellReadSeq m' a n := by
  apply List.ext_getElem (by simp)
  intro i hi _
  simp only [cellReadSeq_getElem]
  exact h i (by simpa using hi)

/-- One more element. -/
theorem cellReadSeq_succ (m : List (Nat × BitVec w)) (a n : Nat) :
    cellReadSeq m a (n + 1) = cellReadSeq m a n ++ [cellRead m (a + n)] := by
  simp [cellReadSeq, List.range_succ]

end Sys2Proof.Machine
end

