-- ==== Sys2Proof/Laws/State.lean ====
section
/-! SUPPORT. One lemma per part of the state and named update: what the update leaves as it was, true by `rfl`, and
what it writes. -/

namespace Sys2Proof.Machine

open Sys2Proof

variable (s : State)

/-! ### the environment -/

@[simp] theorem withEnv_params (e : Env) : (s.withEnv e).params = s.params := rfl
@[simp] theorem withEnv_seq (e : Env) : (s.withEnv e).seq = s.seq := rfl
@[simp] theorem withEnv_flags (e : Env) : (s.withEnv e).flags = s.flags := rfl
@[simp] theorem withEnv_session (e : Env) : (s.withEnv e).session = s.session := rfl
@[simp] theorem withEnv_regs (e : Env) : (s.withEnv e).regs = s.regs := rfl
@[simp] theorem withEnv_mem (e : Env) : (s.withEnv e).mem = s.mem := rfl
@[simp] theorem withEnv_points (e : Env) : (s.withEnv e).points = s.points := rfl
@[simp] theorem withEnv_written (e : Env) : (s.withEnv e).written = s.written := rfl
@[simp] theorem withEnv_env (e : Env) : (s.withEnv e).env = e := rfl
@[simp] theorem withEnv_withEnv (e e' : Env) : (s.withEnv e).withEnv e' = s.withEnv e' := rfl
@[simp] theorem withSchedule_params (r : List Turn) : (s.withSchedule r).params = s.params := rfl
@[simp] theorem withSchedule_seq (r : List Turn) : (s.withSchedule r).seq = s.seq := rfl
@[simp] theorem withSchedule_flags (r : List Turn) : (s.withSchedule r).flags = s.flags := rfl
@[simp] theorem withSchedule_session (r : List Turn) : (s.withSchedule r).session = s.session := rfl
@[simp] theorem withSchedule_regs (r : List Turn) : (s.withSchedule r).regs = s.regs := rfl
@[simp] theorem withSchedule_mem (r : List Turn) : (s.withSchedule r).mem = s.mem := rfl
@[simp] theorem withSchedule_points (r : List Turn) : (s.withSchedule r).points = s.points := rfl
@[simp] theorem withSchedule_written (r : List Turn) : (s.withSchedule r).written = s.written := rfl
@[simp] theorem withSchedule_env_tpBaud (r : List Turn) : (s.withSchedule r).env.tpBaud = s.env.tpBaud := rfl
@[simp] theorem withSchedule_env_rxQueue (r : List Turn) : (s.withSchedule r).env.rxQueue = s.env.rxQueue := rfl
@[simp] theorem withSchedule_env_schedule (r : List Turn) : (s.withSchedule r).env.schedule = r := rfl
@[simp] theorem withSchedule_env_cycle (r : List Turn) : (s.withSchedule r).env.cycle = s.env.cycle := rfl
@[simp] theorem withSchedule_env_wireOut (r : List Turn) : (s.withSchedule r).env.wireOut = s.env.wireOut := rfl
@[simp] theorem withSchedule_env_hRdata (r : List Turn) : (s.withSchedule r).env.hRdata = s.env.hRdata := rfl
@[simp] theorem withSchedule_env_freeCount (r : List Turn) : (s.withSchedule r).env.freeCount = s.env.freeCount := rfl
@[simp] theorem withQueue_params (q : List Byte) : (s.withQueue q).params = s.params := rfl
@[simp] theorem withQueue_seq (q : List Byte) : (s.withQueue q).seq = s.seq := rfl
@[simp] theorem withQueue_flags (q : List Byte) : (s.withQueue q).flags = s.flags := rfl
@[simp] theorem withQueue_session (q : List Byte) : (s.withQueue q).session = s.session := rfl
@[simp] theorem withQueue_regs (q : List Byte) : (s.withQueue q).regs = s.regs := rfl
@[simp] theorem withQueue_mem (q : List Byte) : (s.withQueue q).mem = s.mem := rfl
@[simp] theorem withQueue_points (q : List Byte) : (s.withQueue q).points = s.points := rfl
@[simp] theorem withQueue_written (q : List Byte) : (s.withQueue q).written = s.written := rfl
@[simp] theorem withQueue_env_tpBaud (q : List Byte) : (s.withQueue q).env.tpBaud = s.env.tpBaud := rfl
@[simp] theorem withQueue_env_rxQueue (q : List Byte) : (s.withQueue q).env.rxQueue = q := rfl
@[simp] theorem withQueue_env_schedule (q : List Byte) : (s.withQueue q).env.schedule = s.env.schedule := rfl
@[simp] theorem withQueue_env_cycle (q : List Byte) : (s.withQueue q).env.cycle = s.env.cycle := rfl
@[simp] theorem withQueue_env_wireOut (q : List Byte) : (s.withQueue q).env.wireOut = s.env.wireOut := rfl
@[simp] theorem withQueue_env_hRdata (q : List Byte) : (s.withQueue q).env.hRdata = s.env.hRdata := rfl
@[simp] theorem withQueue_env_freeCount (q : List Byte) : (s.withQueue q).env.freeCount = s.env.freeCount := rfl

/-! ### acceptCommand -/

@[simp] theorem acceptCommand_params : (acceptCommand s).params = s.params := rfl
@[simp] theorem acceptCommand_seq : (acceptCommand s).seq = s.seq := rfl
@[simp] theorem acceptCommand_session : (acceptCommand s).session = s.session := rfl
@[simp] theorem acceptCommand_regs : (acceptCommand s).regs = s.regs := rfl
@[simp] theorem acceptCommand_mem : (acceptCommand s).mem = s.mem := rfl
@[simp] theorem acceptCommand_points : (acceptCommand s).points = s.points := rfl
@[simp] theorem acceptCommand_env : (acceptCommand s).env = s.env := rfl
@[simp] theorem acceptCommand_written : (acceptCommand s).written = s.written := rfl

/-! ### raiseFailure -/

@[simp] theorem raiseFailure_params (k : FailureKind) (info : Byte) : (raiseFailure k info s).params = s.params := rfl
@[simp] theorem raiseFailure_session (k : FailureKind) (info : Byte) : (raiseFailure k info s).session = s.session := rfl
@[simp] theorem raiseFailure_regs (k : FailureKind) (info : Byte) : (raiseFailure k info s).regs = s.regs := rfl
@[simp] theorem raiseFailure_mem (k : FailureKind) (info : Byte) : (raiseFailure k info s).mem = s.mem := rfl
@[simp] theorem raiseFailure_points (k : FailureKind) (info : Byte) : (raiseFailure k info s).points = s.points := rfl
@[simp] theorem raiseFailure_env (k : FailureKind) (info : Byte) : (raiseFailure k info s).env = s.env := rfl
@[simp] theorem raiseFailure_written (k : FailureKind) (info : Byte) : (raiseFailure k info s).written = s.written := rfl

/-! ### completeOk -/

@[simp] theorem completeOk_params : (completeOk s).params = s.params := rfl
@[simp] theorem completeOk_session : (completeOk s).session = s.session := rfl
@[simp] theorem completeOk_regs : (completeOk s).regs = s.regs := rfl
@[simp] theorem completeOk_mem : (completeOk s).mem = s.mem := rfl
@[simp] theorem completeOk_points : (completeOk s).points = s.points := rfl
@[simp] theorem completeOk_env : (completeOk s).env = s.env := rfl
@[simp] theorem completeOk_written : (completeOk s).written = s.written := rfl

/-! ### dropWrite -/

@[simp] theorem dropWrite_params : (dropWrite s).params = s.params := rfl
@[simp] theorem dropWrite_seq : (dropWrite s).seq = s.seq := rfl
@[simp] theorem dropWrite_session : (dropWrite s).session = s.session := rfl
@[simp] theorem dropWrite_regs : (dropWrite s).regs = s.regs := rfl
@[simp] theorem dropWrite_mem : (dropWrite s).mem = s.mem := rfl
@[simp] theorem dropWrite_points : (dropWrite s).points = s.points := rfl
@[simp] theorem dropWrite_env : (dropWrite s).env = s.env := rfl
@[simp] theorem dropWrite_written : (dropWrite s).written = s.written := rfl

/-! ### markWritten -/

@[simp] theorem markWritten_params (ns : List Nat) : (markWritten ns s).params = s.params := rfl
@[simp] theorem markWritten_seq (ns : List Nat) : (markWritten ns s).seq = s.seq := rfl
@[simp] theorem markWritten_flags (ns : List Nat) : (markWritten ns s).flags = s.flags := rfl
@[simp] theorem markWritten_session (ns : List Nat) : (markWritten ns s).session = s.session := rfl
@[simp] theorem markWritten_regs (ns : List Nat) : (markWritten ns s).regs = s.regs := rfl
@[simp] theorem markWritten_mem (ns : List Nat) : (markWritten ns s).mem = s.mem := rfl
@[simp] theorem markWritten_points (ns : List Nat) : (markWritten ns s).points = s.points := rfl
@[simp] theorem markWritten_env (ns : List Nat) : (markWritten ns s).env = s.env := rfl

/-! ### setRes8 -/

@[simp] theorem setRes8_params (b : Byte) : (setRes8 b s).params = s.params := rfl
@[simp] theorem setRes8_seq (b : Byte) : (setRes8 b s).seq = s.seq := rfl
@[simp] theorem setRes8_flags (b : Byte) : (setRes8 b s).flags = s.flags := rfl
@[simp] theorem setRes8_session (b : Byte) : (setRes8 b s).session = s.session := rfl
@[simp] theorem setRes8_mem (b : Byte) : (setRes8 b s).mem = s.mem := rfl
@[simp] theorem setRes8_points (b : Byte) : (setRes8 b s).points = s.points := rfl
@[simp] theorem setRes8_env (b : Byte) : (setRes8 b s).env = s.env := rfl

/-! ### setResult -/

@[simp] theorem setResult_params (q r d : Int) : (setResult q r d s).params = s.params := rfl
@[simp] theorem setResult_seq (q r d : Int) : (setResult q r d s).seq = s.seq := rfl
@[simp] theorem setResult_flags (q r d : Int) : (setResult q r d s).flags = s.flags := rfl
@[simp] theorem setResult_session (q r d : Int) : (setResult q r d s).session = s.session := rfl
@[simp] theorem setResult_mem (q r d : Int) : (setResult q r d s).mem = s.mem := rfl
@[simp] theorem setResult_points (q r d : Int) : (setResult q r d s).points = s.points := rfl
@[simp] theorem setResult_env (q r d : Int) : (setResult q r d s).env = s.env := rfl

/-! ### build -/

@[simp] theorem build_params (dst src : Byte) : (build dst src s).params = s.params := rfl
@[simp] theorem build_seq (dst src : Byte) : (build dst src s).seq = s.seq := rfl
@[simp] theorem build_flags (dst src : Byte) : (build dst src s).flags = s.flags := rfl
@[simp] theorem build_session (dst src : Byte) : (build dst src s).session = s.session := rfl
@[simp] theorem build_points (dst src : Byte) : (build dst src s).points = s.points := rfl
@[simp] theorem build_env (dst src : Byte) : (build dst src s).env = s.env := rfl
@[simp] theorem build_written (dst src : Byte) : (build dst src s).written = s.written := rfl

/-! ### startRead -/

@[simp] theorem startRead_params : (startRead s).params = s.params := rfl
@[simp] theorem startRead_flags : (startRead s).flags = s.flags := rfl
@[simp] theorem startRead_session : (startRead s).session = s.session := rfl
@[simp] theorem startRead_mem : (startRead s).mem = s.mem := rfl
@[simp] theorem startRead_points : (startRead s).points = s.points := rfl
@[simp] theorem startRead_env : (startRead s).env = s.env := rfl
@[simp] theorem startRead_written : (startRead s).written = s.written := rfl

/-! ### the flags -/

@[simp] theorem acceptCommand_flags_busy : (acceptCommand s).flags.busy = true := rfl
@[simp] theorem acceptCommand_flags_done : (acceptCommand s).flags.done = false := rfl
@[simp] theorem acceptCommand_flags_err : (acceptCommand s).flags.err = false := rfl
@[simp] theorem acceptCommand_flags_svalid : (acceptCommand s).flags.svalid = s.flags.svalid := rfl
@[simp] theorem acceptCommand_flags_errCode : (acceptCommand s).flags.errCode = 0#4 := rfl
@[simp] theorem acceptCommand_flags_dropped : (acceptCommand s).flags.dropped = s.flags.dropped := rfl
@[simp] theorem acceptCommand_flags_rplSrcOk : (acceptCommand s).flags.rplSrcOk = s.flags.rplSrcOk := rfl
@[simp] theorem acceptCommand_flags_errInfo : (acceptCommand s).flags.errInfo = 0#8 := rfl

@[simp] theorem raiseFailure_flags_busy (k : FailureKind) (info : Byte) : (raiseFailure k info s).flags.busy = false := rfl
@[simp] theorem raiseFailure_flags_done (k : FailureKind) (info : Byte) : (raiseFailure k info s).flags.done = true := rfl
@[simp] theorem raiseFailure_flags_err (k : FailureKind) (info : Byte) : (raiseFailure k info s).flags.err = true := rfl
@[simp] theorem raiseFailure_flags_svalid (k : FailureKind) (info : Byte) : (raiseFailure k info s).flags.svalid = s.flags.svalid := rfl
@[simp] theorem raiseFailure_flags_errCode (k : FailureKind) (info : Byte) : (raiseFailure k info s).flags.errCode = k.code := rfl
@[simp] theorem raiseFailure_flags_dropped (k : FailureKind) (info : Byte) : (raiseFailure k info s).flags.dropped = s.flags.dropped := rfl
@[simp] theorem raiseFailure_flags_rplSrcOk (k : FailureKind) (info : Byte) : (raiseFailure k info s).flags.rplSrcOk = s.flags.rplSrcOk := rfl
@[simp] theorem raiseFailure_flags_errInfo (k : FailureKind) (info : Byte) : (raiseFailure k info s).flags.errInfo = info := rfl

@[simp] theorem completeOk_flags_busy : (completeOk s).flags.busy = false := rfl
@[simp] theorem completeOk_flags_done : (completeOk s).flags.done = true := rfl
@[simp] theorem completeOk_flags_err : (completeOk s).flags.err = false := rfl
@[simp] theorem completeOk_flags_svalid : (completeOk s).flags.svalid = s.flags.svalid := rfl
@[simp] theorem completeOk_flags_errCode : (completeOk s).flags.errCode = 0#4 := rfl
@[simp] theorem completeOk_flags_dropped : (completeOk s).flags.dropped = s.flags.dropped := rfl
@[simp] theorem completeOk_flags_rplSrcOk : (completeOk s).flags.rplSrcOk = s.flags.rplSrcOk := rfl
@[simp] theorem completeOk_flags_errInfo : (completeOk s).flags.errInfo = 0#8 := rfl

@[simp] theorem dropWrite_flags_busy : (dropWrite s).flags.busy = s.flags.busy := rfl
@[simp] theorem dropWrite_flags_done : (dropWrite s).flags.done = s.flags.done := rfl
@[simp] theorem dropWrite_flags_err : (dropWrite s).flags.err = s.flags.err := rfl
@[simp] theorem dropWrite_flags_svalid : (dropWrite s).flags.svalid = s.flags.svalid := rfl
@[simp] theorem dropWrite_flags_errCode : (dropWrite s).flags.errCode = s.flags.errCode := rfl
@[simp] theorem dropWrite_flags_dropped : (dropWrite s).flags.dropped = true := rfl
@[simp] theorem dropWrite_flags_rplSrcOk : (dropWrite s).flags.rplSrcOk = s.flags.rplSrcOk := rfl
@[simp] theorem dropWrite_flags_errInfo : (dropWrite s).flags.errInfo = s.flags.errInfo := rfl

/-! ### the sequencing state -/

@[simp] theorem raiseFailure_seq_fsm (k : FailureKind) (info : Byte) : (raiseFailure k info s).seq.fsm = .idle := rfl
@[simp] theorem raiseFailure_seq_attempts (k : FailureKind) (info : Byte) : (raiseFailure k info s).seq.attempts = s.seq.attempts := rfl
@[simp] theorem raiseFailure_seq_txIdx (k : FailureKind) (info : Byte) : (raiseFailure k info s).seq.txIdx = s.seq.txIdx := rfl
@[simp] theorem completeOk_seq_fsm : (completeOk s).seq.fsm = .idle := rfl
@[simp] theorem completeOk_seq_attempts : (completeOk s).seq.attempts = s.seq.attempts := rfl
@[simp] theorem completeOk_seq_txIdx : (completeOk s).seq.txIdx = s.seq.txIdx := rfl
@[simp] theorem startRead_seq_fsm : (startRead s).seq.fsm = .read := rfl
@[simp] theorem startRead_seq_attempts : (startRead s).seq.attempts = s.seq.attempts := rfl
@[simp] theorem startRead_seq_txIdx : (startRead s).seq.txIdx = s.seq.txIdx := rfl

/-! ### the registers -/

@[simp] theorem setRes8_regs (b : Byte) : (setRes8 b s).regs = { s.regs with res8 := b } := rfl
@[simp] theorem setResult_regs (q r d : Int) : (setResult q r d s).regs =
    { s.regs with res := BitVec.ofInt 66 q, resRem := BitVec.ofInt 33 r, resDen := BitVec.ofInt 33 d } := rfl
@[simp] theorem build_regs (dst src : Byte) : (build dst src s).regs =
    { s.regs with txLen := BitVec.ofNat 16 (builtFrame dst src s).length } := rfl
@[simp] theorem build_mem (dst src : Byte) :
    (build dst src s).mem = cellWriteSeq s.mem baseTxbuf (builtFrame dst src s) := rfl
@[simp] theorem startRead_regs : (startRead s).regs = { s.regs with rxLen := 0#16 } := rfl

/-! ### Fields: what it leaves as it was -/

@[simp] theorem setFields_params (c : List Byte) : (setFields c s).params = s.params := by
  unfold setFields; split <;> rfl
@[simp] theorem setFields_seq (c : List Byte) : (setFields c s).seq = s.seq := by
  unfold setFields; split <;> rfl
@[simp] theorem setFields_session (c : List Byte) : (setFields c s).session = s.session := by
  unfold setFields; split <;> rfl
@[simp] theorem setFields_mem (c : List Byte) : (setFields c s).mem = s.mem := by
  unfold setFields; split <;> rfl
@[simp] theorem setFields_points (c : List Byte) : (setFields c s).points = s.points := by
  unfold setFields; split <;> rfl
@[simp] theorem setFields_env (c : List Byte) : (setFields c s).env = s.env := by
  unfold setFields; split <;> rfl
@[simp] theorem setFields_flags_busy (c : List Byte) : (setFields c s).flags.busy = s.flags.busy := by
  unfold setFields; split <;> rfl
@[simp] theorem setFields_flags_done (c : List Byte) : (setFields c s).flags.done = s.flags.done := by
  unfold setFields; split <;> rfl
@[simp] theorem setFields_flags_err (c : List Byte) : (setFields c s).flags.err = s.flags.err := by
  unfold setFields; split <;> rfl
@[simp] theorem setFields_flags_svalid (c : List Byte) : (setFields c s).flags.svalid = s.flags.svalid := by
  unfold setFields; split <;> rfl
@[simp] theorem setFields_flags_errCode (c : List Byte) : (setFields c s).flags.errCode = s.flags.errCode := by
  unfold setFields; split <;> rfl
@[simp] theorem setFields_flags_dropped (c : List Byte) : (setFields c s).flags.dropped = s.flags.dropped := by
  unfold setFields; split <;> rfl
@[simp] theorem setFields_flags_errInfo (c : List Byte) : (setFields c s).flags.errInfo = s.flags.errInfo := by
  unfold setFields; split <;> rfl
@[simp] theorem setFields_regs_opcLen (c : List Byte) : (setFields c s).regs.opcLen = s.regs.opcLen := by
  unfold setFields; split <;> rfl
@[simp] theorem setFields_regs_payLen (c : List Byte) : (setFields c s).regs.payLen = s.regs.payLen := by
  unfold setFields; split <;> rfl
@[simp] theorem setFields_regs_preCnt (c : List Byte) : (setFields c s).regs.preCnt = s.regs.preCnt := by
  unfold setFields; split <;> rfl
@[simp] theorem setFields_regs_txLen (c : List Byte) : (setFields c s).regs.txLen = s.regs.txLen := by
  unfold setFields; split <;> rfl
@[simp] theorem setFields_regs_rxLen (c : List Byte) : (setFields c s).regs.rxLen = s.regs.rxLen := by
  unfold setFields; split <;> rfl

end Sys2Proof.Machine
end

