-- ==== Sys2Proof/Laws/Ops.lean ====
section
/-! SUPPORT. What each shared operation can do, said once: a host write, the length checks, Build, Fields, the loop
guard, a byte taken, a byte handed over, and the register map's windows. -/

namespace Sys2Proof.Machine

open Sys2Proof

variable {s t : State}

/-! ### The register map -/

theorem inArray_iff {n base count : Nat} : inArray n base count = true ↔ base ≤ n ∧ n < base + count := by
  simp [inArray]

theorem inArray_eq_false {n base count : Nat} (h : n < base ∨ base + count ≤ n) : inArray n base count = false := by
  simp [inArray]; omega

/-- The bounds on the open parameters, as inequalities (R4, R61). -/
theorem params_bounds {p : Config.Params} (h : p.wf = true) :
    p.payMax ≤ 3832 ∧ p.payMax + 264 ≤ p.rxMax ∧ p.rxMax ≤ 4096 ∧ 1 ≤ p.maxPoints ∧ p.maxPoints ≤ 255 := by
  have ht : p.txMax = p.payMax + 264 := rfl
  simp only [Config.Params.wf, Bool.and_eq_true, decide_eq_true_eq] at h
  omega

/-- A number below 0x21 is the scalar register of that place. -/
theorem hostReg_scalar {p : Config.Params} {n : Nat} (h : n < 0x21) : hostReg p n = scalarRegs.getD n .unmapped := by
  simp [hostReg, h]

/-- The numbers of the byte-array operand registers. -/
theorem hostReg_operandByte {p : Config.Params} {n : Nat} :
    hostReg p n = .operandByte ↔
      (0x40 ≤ n ∧ n < 0x4D) ∨ (0x50 ≤ n ∧ n < 0x52) ∨ (0x54 ≤ n ∧ n < 0x58) ∨ (0x100 ≤ n ∧ n < 0x100 + p.payMax) := by
  unfold hostReg
  split
  · next h =>
    refine ⟨fun hc => ?_, fun hc => by omega⟩
    exfalso; revert hc; revert n; decide
  · split
    · next h =>
      simp only [Bool.or_eq_true, inArray_iff, baseTxt0, baseTxt1, baseBcd, basePair, baseOpc, basePay] at h
      exact ⟨fun _ => by omega, fun _ => rfl⟩
    · next h =>
      simp only [Bool.or_eq_true, inArray_iff, baseTxt0, baseTxt1, baseBcd, basePair, baseOpc, basePay] at h
      refine ⟨fun hc => ?_, fun hc => by omega⟩
      split at hc
      · cases hc
      · split at hc
        · cases hc
        · split at hc <;> cases hc

/-- The numbers of the RXBUF window. -/
theorem hostReg_rxByte {p : Config.Params} {n : Nat} (h : hostReg p n = .rxByte) :
    0x3000 ≤ n ∧ n < 0x3000 + p.rxMax := by
  unfold hostReg at h
  split at h
  · exfalso; revert h; revert n; decide
  · split at h
    · cases h
    · split at h
      · cases h
      · split at h
        · cases h
        · split at h
          · next hr => exact inArray_iff.mp hr
          · cases h

/-- Outside the scalar registers and the operand arrays, a number is a breakpoint, a byte of a window, or unmapped. -/
theorem hostReg_window {p : Config.Params} {n : Nat} (h0 : 0x21 ≤ n) (h : hostReg p n ≠ .operandByte) :
    hostReg p n =
      if inArray n basePtRaw p.maxPoints || inArray n basePtVal p.maxPoints then .point
      else if inArray n baseTxbuf p.txMax then .txByte
      else if inArray n baseRxbuf p.rxMax then .rxByte
      else .unmapped := by
  have hn : ¬ n < 0x21 := by omega
  unfold hostReg at h ⊢
  rw [if_neg hn] at h ⊢
  split
  · next ha => rw [if_pos ha] at h; exact absurd rfl h
  · rfl

/-- The numbers of the breakpoint table (R34). -/
theorem hostReg_of_point {p : Config.Params} {n : Nat} (hp : p.wf = true)
    (h : (0x1000 ≤ n ∧ n < 0x1000 + p.maxPoints) ∨ (0x1400 ≤ n ∧ n < 0x1400 + p.maxPoints)) :
    hostReg p n = .point := by
  have hb := params_bounds hp
  rw [hostReg_window (by omega) (by rw [Ne, hostReg_operandByte]; omega), if_pos]
  simpa only [Bool.or_eq_true, inArray_iff, basePtRaw, basePtVal] using h

/-- The numbers of the TXBUF window (R63). -/
theorem hostReg_of_txByte {p : Config.Params} {n : Nat} (hp : p.wf = true)
    (h : 0x2000 ≤ n ∧ n < 0x2000 + p.txMax) : hostReg p n = .txByte := by
  have hb := params_bounds hp
  rw [hostReg_window (by omega) (by rw [Ne, hostReg_operandByte]; omega), if_neg, if_pos]
  · exact inArray_iff.mpr h
  · simp only [Bool.or_eq_true, inArray_iff, basePtRaw, basePtVal]; omega

/-- The numbers of the RXBUF window (R64). -/
theorem hostReg_of_rxByte {p : Config.Params} {n : Nat} (hp : p.wf = true)
    (h : 0x3000 ≤ n ∧ n < 0x3000 + p.rxMax) : hostReg p n = .rxByte := by
  have hb := params_bounds hp
  have ht : p.txMax = p.payMax + 264 := rfl
  rw [hostReg_window (by omega) (by rw [Ne, hostReg_operandByte]; omega), if_neg, if_neg, if_pos]
  · exact inArray_iff.mpr h
  · simp only [inArray_iff, baseTxbuf]; omega
  · simp only [Bool.or_eq_true, inArray_iff, basePtRaw, basePtVal]; omega

/-- Every byte array lies below the RXBUF window or in it, and none meets the TXBUF window. -/
theorem hostReg_byte_outside_txbuf {p : Config.Params} {n : Nat} (hp : p.wf = true)
    (h : hostReg p n = .operandByte ∨ hostReg p n = .rxByte) : n < 0x2000 ∨ 0x2000 + p.txMax ≤ n := by
  have hb := params_bounds hp
  have ht : p.txMax = p.payMax + 264 := rfl
  rcases h with h | h
  · rw [hostReg_operandByte] at h; omega
  · have := hostReg_rxByte h; omega

/-! ### The bookkeeping and the result registers -/

theorem markWritten_eq (ns : List Nat) (s : State) : ∃ w, markWritten ns s = { s with written := w } := ⟨_, rfl⟩

theorem setRes8_eq (b : Byte) (s : State) :
    ∃ w, setRes8 b s = { s with regs := { s.regs with res8 := b }, written := w } := ⟨_, rfl⟩

theorem setResult_eq (q r d : Int) (s : State) :
    ∃ w, setResult q r d s = { s with
      regs := { s.regs with res := BitVec.ofInt 66 q, resRem := BitVec.ofInt 33 r, resDen := BitVec.ofInt 33 d }
      written := w } := ⟨_, rfl⟩

/-- Acceptance and completion in success, taken together: the completion flags as R251 leaves them. -/
theorem completeOk_flags (s : State) :
    (completeOk s).flags =
      { s.flags with errCode := 0#4, errInfo := 0#8, err := false, done := true, busy := false } := rfl

/-- A failure raised on the state a command was accepted in differs from the state before only in the completion flags
and fsm (R252). -/
theorem raiseFailure_acceptCommand (k : FailureKind) (info : Byte) (s : State) :
    raiseFailure k info (acceptCommand s) = raiseFailure k info s := rfl

/-! ### Host writes -/

/-- Everything a host write to a register other than CMD can do (R61, R62, R81): while BUSY = 1 it sets DROPPED;
while BUSY = 0 it does nothing, or changes operand registers, one element of the byte memory or one breakpoint word. -/
theorem hostWrite_cases (n : Nat) (v : HostWord) (s : State) :
    (s.flags.busy = false ∧ hostWrite n v s = s) ∨
    (s.flags.busy = true ∧ hostWrite n v s = dropWrite s) ∨
    (s.flags.busy = false ∧
      ((∃ g w, hostWrite n v s = { s with regs := g, written := w } ∧ g.txLen = s.regs.txLen ∧
          g.res = s.regs.res ∧ g.resRem = s.regs.resRem ∧ g.resDen = s.regs.resDen ∧ g.res8 = s.regs.res8 ∧
          g.rplDst = s.regs.rplDst ∧ g.rplSrc = s.regs.rplSrc ∧ g.rplSt = s.regs.rplSt) ∨
       (∃ w, hostWrite n v s = { s with mem := cellWrite s.mem n (v.setWidth 8), written := w } ∧
          (hostReg s.params n = .operandByte ∨ hostReg s.params n = .rxByte)) ∨
       (∃ w, hostWrite n v s = { s with points := cellWrite s.points n (v.setWidth 32), written := w } ∧
          hostReg s.params n = .point))) := by
  unfold hostWrite
  split
  · next hb => exact .inr (.inl ⟨hb, rfl⟩)
  · next hb =>
    have hb : s.flags.busy = false := by simpa using hb
    unfold storeReg
    cases hr : hostReg s.params n <;>
      first
      | exact .inl ⟨hb, rfl⟩
      | exact .inr (.inr ⟨hb, .inl ⟨_, _, rfl, rfl, rfl, rfl, rfl, rfl, rfl, rfl, rfl⟩⟩)
      | exact .inr (.inr ⟨hb, .inr (.inl ⟨_, rfl, by simp⟩)⟩)
      | exact .inr (.inr ⟨hb, .inr (.inr ⟨_, rfl, rfl⟩)⟩)

/-! ### The length checks and Build -/

/-- The lengths pass exactly when the opcode length is 1 to 4 and the payload length at most PAY_MAX (R182, R201). -/
theorem lengthFault_none :
    lengthFault s = none ↔
      1 ≤ s.regs.opcLen.toNat ∧ s.regs.opcLen.toNat ≤ 4 ∧ s.regs.payLen.toNat ≤ s.params.payMax := by
  unfold lengthFault
  split
  · simp; omega
  · split <;> simp <;> omega

theorem lengthFault_opcode (h : s.regs.opcLen.toNat < 1 ∨ 4 < s.regs.opcLen.toNat) :
    lengthFault s = some (.invalidOpcode, s.regs.opcLen.setWidth 8) := by
  unfold lengthFault; rw [if_pos h]

theorem lengthFault_payload (h1 : 1 ≤ s.regs.opcLen.toNat) (h4 : s.regs.opcLen.toNat ≤ 4)
    (hp : s.params.payMax < s.regs.payLen.toNat) : lengthFault s = some (.invalidArgument, 0x04#8) := by
  unfold lengthFault; rw [if_neg (by omega), if_pos hp]

theorem frameEncode_length (dst src : Byte) (opc pay : List Byte) (p : Nat) :
    (frameEncode dst src opc pay p).length = p + opc.length + pay.length + 5 := by
  simp [frameEncode]; omega

theorem builtFrame_length (dst src : Byte) (s : State) :
    (builtFrame dst src s).length =
      s.regs.preCnt.toNat + s.regs.opcLen.toNat + s.regs.payLen.toNat + 5 := by
  simp [builtFrame, frameEncode_length, opcodeBytes, payloadBytes]

/-- A frame of accepted lengths is 6 to TX_MAX bytes long and its length fits TXLEN (R101). -/
theorem builtFrame_bounds (dst src : Byte) (hp : s.params.wf = true) (h : lengthFault s = none) :
    6 ≤ (builtFrame dst src s).length ∧ (builtFrame dst src s).length ≤ s.params.txMax ∧
      (builtFrame dst src s).length < 65536 := by
  rw [builtFrame_length]
  have hb := params_bounds hp
  have hl := lengthFault_none.mp h
  have := s.regs.preCnt.isLt
  have ht : s.params.txMax = s.params.payMax + 264 := rfl
  omega

/-- Build: TXBUF holds the frame, and nothing below or behind it has changed (R183). -/
theorem build_frame (dst src : Byte) (hm : Memory.wf s.mem = true) (hp : s.params.wf = true)
    (h : lengthFault s = none) : txFrame (build dst src s) = builtFrame dst src s := by
  have hb := builtFrame_bounds dst src hp h
  have ht : (build dst src s).regs.txLen.toNat = (builtFrame dst src s).length := by
    rw [build_regs]; simp; omega
  rw [txFrame, ht, build_mem]
  exact cellReadSeq_cellWriteSeq hm _ _

/-- Build reads its operands from outside the frame it writes: they read alike before and after (R33, R61). -/
theorem builtFrame_congr {s t : State} (dst src : Byte) (h1 : t.regs.opcLen = s.regs.opcLen)
    (h2 : t.regs.payLen = s.regs.payLen) (h3 : t.regs.preCnt = s.regs.preCnt)
    (hm : ∀ a, a < 0x100 + s.regs.payLen.toNat → cellRead t.mem a = cellRead s.mem a) :
    builtFrame dst src t = builtFrame dst src s := by
  have h4 := s.regs.opcLen.isLt
  have ho : opcodeBytes t = opcodeBytes s := by
    unfold opcodeBytes; rw [h1]
    exact cellReadSeq_congr fun i hi => hm _ (by simp only [baseOpc]; omega)
  have hp : payloadBytes t = payloadBytes s := by
    unfold payloadBytes; rw [h2]
    exact cellReadSeq_congr fun i hi => hm _ (by simp only [basePay]; omega)
  rw [builtFrame, builtFrame, ho, hp, h3]

/-! ### Fields -/

/-- Fields of a candidate with a source byte (R187). -/
theorem setFields_source {c : List Byte} (h : 4 ≤ c.length) :
    ∃ w, setFields c s = { s with
      regs := { s.regs with
        rplDst := c.getD 2 0#8, rplSrc := c.getD 3 0#8, rplSt := c.getD (c.length - 2) 0#8 }
      flags := { s.flags with rplSrcOk := true }
      written := w } := by
  unfold setFields; rw [if_pos h]; exact ⟨_, rfl⟩

/-- Fields of a candidate of length 3 (R187). -/
theorem setFields_noSource {c : List Byte} (h : c.length = 3) :
    ∃ w, setFields c s = { s with
      regs := { s.regs with rplDst := c.getD 2 0#8, rplSt := c.getD 1 0#8 }
      flags := { s.flags with rplSrcOk := false }
      written := w } := by
  unfold setFields; rw [if_neg (by omega), h]; exact ⟨_, rfl⟩

/-! ### The read loop -/

theorem loopGuard_read (h : s.seq.attempts.toNat < s.session.maxAtt.toNat) : loopGuard s = startRead s := by
  simp [loopGuard, h]

theorem loopGuard_timeout (h : s.session.maxAtt.toNat ≤ s.seq.attempts.toNat) :
    loopGuard s = raiseFailure .commandTimeout s.seq.attempts s := by
  simp [loopGuard, Nat.not_lt.mpr h]

/-- A byte taken by a read that has room for it (R73). -/
theorem takeByte_room {b : Byte} (h : s.regs.rxLen.toNat < s.params.rxMax) :
    ∃ w, takeByte b s = { s with
      mem := cellWrite s.mem (0x3000 + s.regs.rxLen.toNat) b
      regs := { s.regs with rxLen := s.regs.rxLen + 1#16 }
      seq := { s.seq with fsm := if b = Config.cTerm then .classify else s.seq.fsm }
      written := w } := by
  unfold takeByte
  rw [if_pos h]
  split
  · next hb => exact ⟨_, by simp only [hb]; rfl⟩
  · next hb => exact ⟨_, rfl⟩

/-- A byte that finds the candidate buffer full (R76). -/
theorem takeByte_full {b : Byte} (h : s.params.rxMax ≤ s.regs.rxLen.toNat) :
    takeByte b s = raiseFailure .ioError 0x03#8 s := by
  simp [takeByte, Nat.not_lt.mpr h]

/-- A byte handed over that is not the last (R70). -/
theorem txAccept_more (h : s.seq.txIdx.toNat + 1 < s.regs.txLen.toNat) :
    txAccept s = { s with
      env := { s.env with wireOut := s.env.wireOut ++ [txData s] }
      seq := { s.seq with txIdx := s.seq.txIdx + 1#16 } } := by
  simp [txAccept, h]

/-- The last byte handed over (R70, R204). -/
theorem txAccept_last (h : s.regs.txLen.toNat ≤ s.seq.txIdx.toNat + 1) :
    txAccept s = loopGuard { s with
      env := { s.env with wireOut := s.env.wireOut ++ [txData s] }
      seq := { s.seq with txIdx := s.regs.txLen, attempts := 0#8 } } := by
  simp [txAccept, Nat.not_lt.mpr h]

/-! ### What a candidate and a frame depend on -/

theorem candidate_length (s : State) : (candidate s).length = s.regs.rxLen.toNat := by simp [candidate]

theorem txFrame_length (s : State) : (txFrame s).length = s.regs.txLen.toNat := by simp [txFrame]

theorem candidate_getD {i : Nat} (h : i < s.regs.rxLen.toNat) :
    (candidate s).getD i 0#8 = cellRead s.mem (0x3000 + i) := by
  rw [List.getD_eq_getElem _ _ (by simpa [candidate] using h)]
  simp [candidate, baseRxbuf]

/-! ### Runs -/

@[simp] theorem run_zero (s : State) : Host.Core.run Sys2Proof.core 0 s = .next s := rfl

theorem run_succ {k : Nat} (h : step s = .next t) :
    Host.Core.run Sys2Proof.core (k + 1) s = Host.Core.run Sys2Proof.core k t := by
  simp only [Host.Core.run, show Sys2Proof.core.step s = .next t from h]

/-- A run of `j + k` steps is one of `j`, then one of `k`. -/
theorem run_add {j k : Nat} (h : Host.Core.run Sys2Proof.core j s = .next t) :
    Host.Core.run Sys2Proof.core (j + k) s = Host.Core.run Sys2Proof.core k t := by
  induction j generalizing s with
  | zero =>
    obtain rfl : s = t := Host.Outcome.next.inj h
    simp
  | succ j ih =>
    rw [Nat.add_right_comm]
    cases hs : step s with
    | next u =>
      rw [run_succ hs] at h ⊢
      exact ih h
    | fault r => simp [Host.Core.run, show Sys2Proof.core.step s = .fault r from hs] at h
    | refused r => simp [Host.Core.run, show Sys2Proof.core.step s = .refused r from hs] at h

end Sys2Proof.Machine
end

