-- ==== Sys2Proof/Laws/PerInstr.lean ====
section
/-! SUPPORT. The statements made per instruction: about the instruction as syntax, one lemma for each constructor. -/

/-- The byte of an instruction is a well-formed word of its own space and of no other: a command word exactly when the
instruction is an operation of R106, a byte with a fixed meaning exactly when it is a wire constant of R103. -/
def Sys2Proof.Laws.OneSpace.Statement (i : Sys2Proof.Instr) : Prop :=
  (Sys2Proof.CommandWord.wf (Sys2Proof.encode i) = i.wf .command) ∧
    (Sys2Proof.WireByte.wf (Sys2Proof.encode i) = i.wf .wire)

namespace Sys2Proof.Laws.OneSpace

theorem addrvT : Statement .addrvT := by unfold Statement; decide
theorem addrvN : Statement .addrvN := by unfold Statement; decide
theorem sinit : Statement .sinit := by unfold Statement; decide
theorem bcdenc : Statement .bcdenc := by unfold Statement; decide
theorem bcddec : Statement .bcddec := by unfold Statement; decide
theorem pair2i : Statement .pair2i := by unfold Statement; decide
theorem interp : Statement .interp := by unfold Statement; decide
theorem rescale : Statement .rescale := by unfold Statement; decide
theorem prelut : Statement .prelut := by unfold Statement; decide
theorem fenc : Statement .fenc := by unfold Statement; decide
theorem fdec : Statement .fdec := by unfold Statement; decide
theorem xchg : Statement .xchg := by unfold Statement; decide
theorem cPreMark : Statement .cPreMark := by unfold Statement; decide
theorem cTerm : Statement .cTerm := by unfold Statement; decide
theorem cOk : Statement .cOk := by unfold Statement; decide
theorem cNg : Statement .cNg := by unfold Statement; decide

end Sys2Proof.Laws.OneSpace
end

