-- ==== Sys2Proof/Laws/Step.lean ====
section
/-! SUPPORT. What each shared operation can do, said once, and the inversion of `step`: the cases every proof about a
step starts from. -/

namespace Sys2Proof.Machine

open Sys2Proof

variable {s t : State}

/-! ### Commands -/

@[simp] theorem onCommand_idle (op : State → State) (h : s.flags.busy = false) :
    onCommand op s = .next (op (acceptCommand s)) := by simp [onCommand, h]

@[simp] theorem onCommand_busy (op : State → State) (h : s.flags.busy = true) :
    onCommand op s = .next (dropWrite s) := by simp [onCommand, h]

/-- What a command does between acceptance and completion. -/
def commandOp : Instr → State → State
  | .addrvT => opAddrvT
  | .addrvN => opAddrvN
  | .sinit => opSinit
  | .bcdenc => opBcdenc
  | .bcddec => opBcddec
  | .pair2i => opPair2i
  | .interp => opInterp
  | .rescale => opRescale
  | .prelut => opPrelut
  | .fenc => opFenc
  | .fdec => opFdec
  | .xchg => opXchg
  | .cPreMark | .cTerm | .cOk | .cNg => id

/-- A command's meaning is the CMD write around its operation. -/
theorem exec_command (i : Instr) (h : i.space = .command) (s : State) : exec i s = onCommand (commandOp i) s := by
  cases i <;> first | rfl | simp [Instr.space] at h

/-- A wire constant's meaning is the byte offered. -/
theorem exec_wire (i : Instr) (h : i.space = .wire) (s : State) : exec i s = .next (offerByte (encode i) s) := by
  cases i <;> first | rfl | simp [Instr.space] at h

theorem selectRow_mem {rows : List OpcodeRow} {w : Byte} {i : Instr} (h : selectRow rows w = some i) :
    ∃ r ∈ rows, w &&& r.mask = r.pattern ∧ r.instr = i := by
  induction rows with
  | nil => simp [selectRow] at h
  | cons r rest ih =>
    unfold selectRow at h
    split at h
    · next hr => exact ⟨r, by simp, hr, by simpa using h⟩
    · obtain ⟨q, hq, h'⟩ := ih h
      exact ⟨q, by simp [hq], h'⟩

/-- A command word decodes to a command. -/
theorem decodeCommand_space {w : Byte} {i : Instr} (h : decodeCommand w = .ok i) : i.space = .command := by
  unfold decodeCommand at h
  split at h
  · next j hj =>
    obtain ⟨r, hr, -, rfl⟩ := selectRow_mem hj
    obtain rfl : r.instr = i := by simpa using h
    simp only [commandRows, List.mem_cons, List.not_mem_nil, or_false] at hr
    rcases hr with rfl | rfl | rfl | rfl | rfl | rfl | rfl | rfl | rfl | rfl | rfl | rfl <;> rfl
  · split at h <;> cases h

/-- A wire byte decodes to the wire constant that encodes to it. -/
theorem decodeWire_ok {b : Byte} {i : Instr} (h : decodeWire b = .ok i) : i.space = .wire ∧ encode i = b := by
  unfold decodeWire at h
  split at h
  · next j hj =>
    obtain ⟨r, hr, hm, rfl⟩ := selectRow_mem hj
    obtain rfl : r.instr = i := by simpa using h
    have hff : ∀ x : Byte, x &&& 0xFF#8 = x := by intro x; exact BitVec.and_allOnes
    simp only [wireRows, List.mem_cons, List.not_mem_nil, or_false] at hr
    rcases hr with rfl | rfl | rfl | rfl <;> simp_all [Instr.space, encode]
  · cases h

/-! ### The engine -/

theorem offerByte_read {b : Byte} (h : s.seq.fsm = .read) : offerByte b s = takeByte b s := by
  simp [offerByte, rxReady, h, engineStep]

theorem offerByte_held {b : Byte} (h : s.seq.fsm ≠ .read) :
    offerByte b s = s.withQueue (b :: s.env.rxQueue) := by
  have : (s.seq.fsm == .read) = false := by simpa using h
  simp [offerByte, rxReady, this]

/-- The events of WRITE (R69, R77). -/
theorem edgeEvent_write {p : TransportPins} (h : s.seq.fsm = .write) :
    edgeEvent p s = if p.txErr then some .txError else if p.txReady && txValid s then some .txAccept else none := by
  simp [edgeEvent, h]

/-- CLASSIFY takes one step whatever the pins (R221). -/
theorem edgeEvent_classify {p : TransportPins} (h : s.seq.fsm = .classify) :
    edgeEvent p s = some .classification := by
  simp [edgeEvent, h]

/-- IDLE ignores the Transport (R221). -/
theorem edgeEvent_idle {p : TransportPins} (h : s.seq.fsm = .idle) : edgeEvent p s = none := by
  simp [edgeEvent, h]

/-- A byte offered to a read is taken (R73, R77). -/
theorem edgeEvent_byte {p : TransportPins} {b : Byte} {q : List Byte} (h : s.seq.fsm = .read) (he : p.rxErr = false)
    (hv : p.rxValid = true) (hq : s.env.rxQueue = b :: q) : edgeEvent p s = some (.rxByte b) := by
  simp [edgeEvent, h, he, hv, hq]

/-- A byte is taken only in READ, and it is the oldest the Transport holds. -/
theorem edgeEvent_byte_inv {p : TransportPins} {b : Byte} (h : edgeEvent p s = some (.rxByte b)) :
    s.seq.fsm = .read ∧ s.env.rxQueue = b :: s.env.rxQueue.tail := by
  unfold edgeEvent at h
  split at h
  · cases h
  · split at h
    · cases h
    · split at h <;> cases h
  · next hf =>
    refine ⟨hf, ?_⟩
    split at h
    · cases h
    · split at h
      · next hq => simp at h; subst h; simp [hq]
      · split at h <;> cases h
  · cases h

/-- Where an event can be taken (R221). -/
def EngineEvent.occursIn (e : EngineEvent) (s : State) : Prop :=
  match e with
  | .txAccept => s.seq.fsm = .write ∧ s.seq.txIdx.toNat < s.regs.txLen.toNat
  | .txError => s.seq.fsm = .write
  | .rxByte _ | .rxTimeout | .rxError => s.seq.fsm = .read
  | .classification => s.seq.fsm = .classify

/-- Which event can be taken where (R221). -/
theorem edgeEvent_fsm {p : TransportPins} {e : EngineEvent} (h : edgeEvent p s = some e) : e.occursIn s := by
  unfold edgeEvent at h
  split at h
  · cases h
  · next hf =>
    split at h
    · cases h; exact hf
    · split at h
      · next hv =>
        cases h
        simp only [txValid, Bool.and_eq_true, decide_eq_true_eq] at hv
        exact ⟨hf, hv.2.2⟩
      · cases h
  · next hf =>
    split at h
    · cases h; exact hf
    · split at h
      · cases h; exact hf
      · split at h <;> cases h; exact hf
  · next hf => cases h; exact hf

/-! ### Turns -/

/-- What an edge does once its event is known: a byte taken has left the Transport's queue, and a byte that is a wire
constant does what every byte does. -/
def afterEvent (e : Option EngineEvent) (s : State) : State :=
  match e with
  | none => s
  | some (.rxByte b) => takeByte b (s.withQueue s.env.rxQueue.tail)
  | some e => engineStep e s

/-- The next turn of a schedule that is not empty. -/
theorem nextTurn_schedule {e : Env} {turn : Turn} {rest : List Turn} (h : e.schedule = turn :: rest) :
    nextTurn e = (turn, rest) := by
  simp only [nextTurn, h]

/-- The next turn of an empty schedule that is taken up again. -/
theorem nextTurn_cycle {e : Env} {turn : Turn} {rest : List Turn} (h : e.schedule = []) (hc : e.cycle = turn :: rest) :
    nextTurn e = (turn, rest) := by
  simp only [nextTurn, h, hc]

/-- Once its turn is known, the fetch is that turn's. -/
theorem fetch_of_nextTurn {turn : Turn} {rest : List Turn} (h : nextTurn s.env = (turn, rest)) :
    fetch s = fetchTurn turn (s.withSchedule rest) := by
  simp only [fetch, h]

/-- An edge is the transition of the event the engine takes. -/
theorem step_edge {p : TransportPins} {rest : List Turn} (h : nextTurn s.env = (.edge p, rest)) :
    step s = .next (afterEvent (edgeEvent p s) (s.withSchedule rest)) := by
  unfold step
  rw [fetch_of_nextTurn h]
  simp only [fetchTurn]
  unfold fetchEdge
  cases he : edgeEvent p s with
  | none => simp only [show edgeEvent p (s.withSchedule rest) = none from he, afterEvent]
  | some e =>
    have he' : edgeEvent p (s.withSchedule rest) = some e := he
    rw [he']
    cases e with
    | rxByte b =>
      have hr : ((s.withSchedule rest).withQueue (s.withSchedule rest).env.rxQueue.tail).seq.fsm = .read :=
        (edgeEvent_byte_inv he).1
      dsimp only
      cases hd : decodeWire b with
      | ok i =>
        obtain ⟨hs, rfl⟩ := decodeWire_ok hd
        dsimp only [afterEvent]
        rw [exec_wire _ hs, offerByte_read hr]
      | error r =>
        dsimp only [afterEvent]
        rw [offerByte_read hr]
    | _ => rfl

/-- A host write to CMD (R80, R81, R107). -/
theorem step_command {v : HostWord} {rest : List Turn} (h : nextTurn s.env = (.host (.write 0 v), rest)) :
    step s = (match decodeCommand (v.setWidth 8) with
      | .ok i => exec i (s.withSchedule rest)
      | .error _ => reservedWord (s.withSchedule rest)) := by
  simp only [step, fetch_of_nextTurn h, fetchTurn, fetchWrite, if_true]
  cases decodeCommand (v.setWidth 8) <;> rfl

/-- A host write to another register (R61, R62, R81). -/
theorem step_write {n : Nat} {v : HostWord} {rest : List Turn} (h : nextTurn s.env = (.host (.write n v), rest))
    (h0 : n ≠ 0) (hn : n < 0x4000) : step s = .next (hostWrite n v (s.withSchedule rest)) := by
  simp [step, fetch_of_nextTurn h, fetchTurn, fetchWrite, h0, registerSpace, hn]

/-- A host read (R61, R62, R79, R81). -/
theorem step_read {n : Nat} {rest : List Turn} (h : nextTurn s.env = (.host (.read n), rest)) (hn : n < 0x4000) :
    step s = .next (hostRead n (s.withSchedule rest)) := by
  simp [step, fetch_of_nextTurn h, fetchTurn, fetchRead, registerSpace, hn]

theorem step_reset {rest : List Turn} (h : nextTurn s.env = (.reset, rest)) :
    step s = .next (resetBlock (s.withSchedule rest)) := by
  simp [step, fetch_of_nextTurn h, fetchTurn]

theorem step_arrive {b : Byte} {rest : List Turn} (h : nextTurn s.env = (.arrive b, rest)) :
    step s = .next ((s.withSchedule rest).withQueue (s.env.rxQueue ++ [b])) := by
  simp [step, fetch_of_nextTurn h, fetchTurn]

theorem step_baud {v : BitVec 32} {rest : List Turn} (h : nextTurn s.env = (.baud v, rest)) :
    step s = .next (s.withEnv { s.env with schedule := rest, tpBaud := v }) := by
  simp only [step, fetch_of_nextTurn h, fetchTurn]
  rfl

/-- An access outside the register space stops the machine (R60). -/
theorem step_outside {n : Nat} {a : HostAccess} {rest : List Turn} (h : nextTurn s.env = (.host a, rest))
    (hn : 0x4000 ≤ n) (ha : a = .read n ∨ ∃ v, a = .write n v) : step s = .fault (.registerOutsideSpace n) := by
  have h0 : n ≠ 0 := by omega
  rcases ha with rfl | ⟨v, rfl⟩
  · simp [step, fetch_of_nextTurn h, fetchTurn, fetchRead, registerSpace, Nat.not_lt.mpr hn]
  · simp [step, fetch_of_nextTurn h, fetchTurn, fetchWrite, h0, registerSpace, Nat.not_lt.mpr hn]

/-- A host read moves h_rdata and the count of free values, nothing else. -/
theorem hostRead_eq (n : Nat) (s : State) :
    ∃ d c, hostRead n s = s.withEnv { s.env with hRdata := d, freeCount := c } := by
  unfold hostRead
  split
  · exact ⟨_, s.env.freeCount, rfl⟩
  · exact ⟨_, _, rfl⟩

/-- THE CASES OF A STEP.  A step that answers a next state is one of: a turn that leaves the block as it was, a host
write to a register, a reset, a host write to CMD (of a command or of a reserved word), or a transition of the engine;
`env'` is the environment as the turn leaves it before the block acts. -/
theorem step_cases (h : step s = .next t) :
    (∃ env', env'.wireOut = s.env.wireOut ∧ env'.cycle = s.env.cycle ∧
      (env'.rxQueue = s.env.rxQueue ∨ ∃ b, (nextTurn s.env).1 = .arrive b ∧ env'.rxQueue = s.env.rxQueue ++ [b]) ∧
      (∀ n v, (nextTurn s.env).1 ≠ .host (.write n v)) ∧ t = s.withEnv env') ∨
    (∃ n v rest, nextTurn s.env = (.host (.write n v), rest) ∧ n ≠ 0 ∧ n < 0x4000 ∧
      t = hostWrite n v (s.withSchedule rest)) ∨
    (∃ rest, nextTurn s.env = (.reset, rest) ∧ t = resetBlock (s.withSchedule rest)) ∨
    (∃ v rest, nextTurn s.env = (.host (.write 0 v), rest) ∧
      ((∃ i, decodeCommand (v.setWidth 8) = .ok i ∧ i.space = .command ∧
        .next t = onCommand (commandOp i) (s.withSchedule rest)) ∨
       (∃ r, decodeCommand (v.setWidth 8) = .error r ∧ .next t = reservedWord (s.withSchedule rest)))) ∨
    (∃ p e env', (nextTurn s.env).1 = .edge p ∧ edgeEvent p s = some e ∧ env'.wireOut = s.env.wireOut ∧
      env'.cycle = s.env.cycle ∧
      (env'.rxQueue = s.env.rxQueue ∨ ∃ b, e = .rxByte b ∧ s.env.rxQueue = b :: env'.rxQueue) ∧
      t = engineStep e (s.withEnv env')) := by
  obtain ⟨turn, rest, hs⟩ : ∃ turn rest, nextTurn s.env = (turn, rest) := ⟨_, _, rfl⟩
  cases turn with
  | edge p =>
    rw [step_edge hs] at h
    have ht := (Host.Outcome.next.inj h).symm
    cases he : edgeEvent p s with
    | none =>
      rw [he] at ht
      exact .inl ⟨{ s.env with schedule := rest }, rfl, rfl, .inl rfl, by simp [hs], ht⟩
    | some e =>
      rw [he] at ht
      refine .inr (.inr (.inr (.inr ?_)))
      cases e with
      | rxByte b =>
        refine ⟨p, .rxByte b, { s.env with schedule := rest, rxQueue := s.env.rxQueue.tail }, by rw [hs], he, rfl, rfl,
          .inr ⟨b, rfl, (edgeEvent_byte_inv he).2⟩, ?_⟩
        rw [ht]; simp [afterEvent, engineStep, State.withQueue, State.withSchedule]
      | _ => exact ⟨p, _, { s.env with schedule := rest }, by rw [hs], he, rfl, rfl, .inl rfl, ht⟩
  | host a =>
    cases a with
    | write n v =>
      by_cases h0 : n = 0
      · subst h0
        rw [step_command hs] at h
        refine .inr (.inr (.inr (.inl ⟨v, rest, hs, ?_⟩)))
        split at h
        · next i hi =>
          have hc := decodeCommand_space hi
          exact .inl ⟨i, hi, hc, by rw [← h, exec_command i hc]⟩
        · next r hr => exact .inr ⟨r, hr, h.symm⟩
      · by_cases hn : n < 0x4000
        · rw [step_write hs h0 hn] at h
          exact .inr (.inl ⟨n, v, rest, hs, h0, hn, (Host.Outcome.next.inj h).symm⟩)
        · rw [step_outside hs (Nat.le_of_not_lt hn) (.inr ⟨v, rfl⟩)] at h; cases h
    | read n =>
      by_cases hn : n < 0x4000
      · rw [step_read hs hn] at h
        obtain ⟨d, c, he⟩ := hostRead_eq n (s.withSchedule rest)
        rw [he] at h
        exact .inl ⟨{ s.env with schedule := rest, hRdata := d, freeCount := c }, rfl, rfl, .inl rfl, by simp [hs],
          (Host.Outcome.next.inj h).symm⟩
      · rw [step_outside hs (Nat.le_of_not_lt hn) (.inl rfl)] at h; cases h
  | arrive b =>
    rw [step_arrive hs] at h
    exact .inl ⟨{ s.env with schedule := rest, rxQueue := s.env.rxQueue ++ [b] }, rfl, rfl, .inr ⟨b, by rw [hs], rfl⟩,
      by simp [hs], (Host.Outcome.next.inj h).symm⟩
  | baud v =>
    rw [step_baud hs] at h
    exact .inl ⟨{ s.env with schedule := rest, tpBaud := v }, rfl, rfl, .inl rfl, by simp [hs],
      (Host.Outcome.next.inj h).symm⟩
  | reset =>
    rw [step_reset hs] at h
    exact .inr (.inr (.inl ⟨rest, hs, (Host.Outcome.next.inj h).symm⟩))

end Sys2Proof.Machine
end

