-- ==== Sys2Proof/Tests/Slice0.lean ====
section
/-! SUPPORT. The model's own tests: what each well-formedness check refuses, the decoding of every row's word, one or two
cases of 95_test_vectors.md for every instruction, and for every statement with hypotheses a concrete state and
operands that meet them. -/

namespace Sys2Proof.Tests

open Sys2Proof Sys2Proof.Machine Sys2Proof.Safety Sys2Proof.Claims

/-! ### Small states -/

/-- The state a result answers, if it answers one. -/
def nextOf (r : Result) : Option State :=
  match r with
  | .next t => some t
  | _ => none

/-- Bytes in an array or buffer from register number `base` on. -/
def withBytes (base : Nat) (bytes : List Byte) (s : State) : State :=
  { s with mem := cellWriteSeq s.mem base bytes }

/-- Text operand 0: length and first four characters. -/
def withText0 (len : BitVec 8) (text : List Byte) (s : State) : State :=
  withBytes 0x40 text { s with regs := { s.regs with txt0Len := len } }

/-- Text operand 1. -/
def withText1 (len : BitVec 8) (text : List Byte) (s : State) : State :=
  withBytes 0x44 text { s with regs := { s.regs with txt1Len := len } }

/-- The breakpoint table and X_IN. -/
def withTable (points : List (Int × Int)) (x : Int) (s : State) : State :=
  { s with
    regs := { s.regs with npoints := BitVec.ofNat 8 points.length, xIn := BitVec.ofInt 32 x }
    points := cellWriteSeq (cellWriteSeq s.points 0x1000 (points.map fun p => BitVec.ofInt 32 p.1)) 0x1400
      (points.map fun p => BitVec.ofInt 32 p.2) }

/-- The operands of RESCALE. -/
def withRange (x oldMin oldMax newMin newMax : Int) (s : State) : State :=
  { s with
    regs := { s.regs with
      xIn := BitVec.ofInt 32 x, oldMin := BitVec.ofInt 32 oldMin, oldMax := BitVec.ofInt 32 oldMax
      newMin := BitVec.ofInt 32 newMin, newMax := BitVec.ofInt 32 newMax } }

/-- FREQ_IN. -/
def withFreq (f : Int) (s : State) : State := { s with regs := { s.regs with freqIn := BitVec.ofInt 64 f } }

/-- Opcode and payload operands, with a length each. -/
def withFrame (opcLen : BitVec 3) (opc : List Byte) (payLen : BitVec 16) (pay : List Byte) (s : State) : State :=
  withBytes 0x100 pay (withBytes 0x54 opc { s with regs := { s.regs with opcLen := opcLen, payLen := payLen } })

/-- A candidate in RXBUF. -/
def withCandidate (c : List Byte) (s : State) : State :=
  withBytes 0x3000 c { s with regs := { s.regs with rxLen := BitVec.ofNat 16 c.length } }

/-- The turns to come. -/
def withTurns (turns : List Turn) (s : State) : State := s.withSchedule turns

/-- A Session: controller 0xE0, transceiver 0x94, budget 3; opcode 03. -/
def session : State :=
  withFrame 1#3 [0x03#8] 0#16 []
    { State.reset with
      session := { ctrl := 0xE0#8, xcvr := 0x94#8, maxAtt := 3#8 }
      flags := { Flags.reset with svalid := true } }

/-- The frame of that Session: FE FE 94 E0 03 FD (V7, first row). -/
def frame : List Byte := [0xFE#8, 0xFE#8, 0x94#8, 0xE0#8, 0x03#8, 0xFD#8]

/-- A reply to it: FE FE E0 94 FB FD (V8, first row). -/
def reply : List Byte := [0xFE#8, 0xFE#8, 0xE0#8, 0x94#8, 0xFB#8, 0xFD#8]

/-- XCHG of that Session at a step, its frame built and its first `sent` bytes handed over. -/
def running (fsm : Fsm) (attempts : BitVec 8) (sent : Nat) : State :=
  let s := withBytes 0x2000 frame session
  { s with
    seq := { fsm := fsm, attempts := attempts, txIdx := BitVec.ofNat 16 sent }
    flags := { s.flags with busy := true }
    regs := { s.regs with txLen := 6#16 }
    env := { s.env with wireOut := frame.take sent } }

/-- Every pin a Transport may raise at once, but the errors and the timeout. -/
def busyPins : TransportPins := { txReady := true, txErr := false, rxValid := true, rxTimeout := false, rxErr := false }

/-- A read timeout. -/
def timeoutPins : TransportPins := { TransportPins.silent with rxTimeout := true }

/-- Errors on both sides, with everything else. -/
def errorPins : TransportPins := { txReady := true, txErr := true, rxValid := true, rxTimeout := true, rxErr := true }

/-- Bytes waiting at the Transport. -/
def withHeld (bytes : List Byte) (s : State) : State := s.withQueue bytes

/-! ### WellFormed: an ill-formed term for each check, refused -/

theorem test_command_reserved_bit_refused : CommandWord.wf 0x11#8 = false := by decide
theorem test_command_selector_zero_refused : CommandWord.wf 0x00#8 = false := by decide
theorem test_command_selector_thirteen_refused : CommandWord.wf 0x0D#8 = false := by decide
theorem test_command_xchg_accepted : CommandWord.wf 0x0C#8 = true := by decide
theorem test_wire_fc_refused : WireByte.wf 0xFC#8 = false := by decide
theorem test_wire_constant_is_no_command : Instr.wf .command .cTerm = false := by decide
theorem test_command_is_no_wire_constant : Instr.wf .wire .xchg = false := by decide
theorem test_payload_capacity_refused :
    Config.Params.wf { payMax := 3833, rxMax := 4096, maxPoints := 16 } = false := by decide
theorem test_receive_capacity_below_frame_refused :
    Config.Params.wf { payMax := 64, rxMax := 327, maxPoints := 16 } = false := by decide
theorem test_receive_capacity_above_window_refused :
    Config.Params.wf { payMax := 64, rxMax := 4097, maxPoints := 16 } = false := by decide
theorem test_no_points_refused : Config.Params.wf { payMax := 64, rxMax := 328, maxPoints := 0 } = false := by decide
theorem test_too_many_points_refused :
    Config.Params.wf { payMax := 64, rxMax := 328, maxPoints := 256 } = false := by decide
theorem test_vector_params_accepted : Config.Params.vectors.wf = true := by decide

/-! ### Decode: every row's word, written out from R106 (op_sel in bits 3:0, bits 7:4 zero) and R103 -/

theorem test_decode_addrvT : decodeCommand 0b0000_0001#8 = .ok .addrvT := by decide
theorem test_decode_addrvN : decodeCommand 0b0000_0010#8 = .ok .addrvN := by decide
theorem test_decode_sinit : decodeCommand 0b0000_0011#8 = .ok .sinit := by decide
theorem test_decode_bcdenc : decodeCommand 0b0000_0100#8 = .ok .bcdenc := by decide
theorem test_decode_bcddec : decodeCommand 0b0000_0101#8 = .ok .bcddec := by decide
theorem test_decode_pair2i : decodeCommand 0b0000_0110#8 = .ok .pair2i := by decide
theorem test_decode_interp : decodeCommand 0b0000_0111#8 = .ok .interp := by decide
theorem test_decode_rescale : decodeCommand 0b0000_1000#8 = .ok .rescale := by decide
theorem test_decode_prelut : decodeCommand 0b0000_1001#8 = .ok .prelut := by decide
theorem test_decode_fenc : decodeCommand 0b0000_1010#8 = .ok .fenc := by decide
theorem test_decode_fdec : decodeCommand 0b0000_1011#8 = .ok .fdec := by decide
theorem test_decode_xchg : decodeCommand 0b0000_1100#8 = .ok .xchg := by decide
theorem test_decode_cPreMark : decodeWire 0b1111_1110#8 = .ok .cPreMark := by decide
theorem test_decode_cTerm : decodeWire 0b1111_1101#8 = .ok .cTerm := by decide
theorem test_decode_cOk : decodeWire 0b1111_1011#8 = .ok .cOk := by decide
theorem test_decode_cNg : decodeWire 0b1111_1010#8 = .ok .cNg := by decide
theorem test_decode_reserved_selector : decodeCommand 0b0000_1101#8 = .error .reservedSelector := by decide
theorem test_decode_reserved_bits : decodeCommand 0b0001_0001#8 = .error .reservedBits := by decide
theorem test_decode_plain_byte : decodeWire 0b0000_0011#8 = .error .noFixedMeaning := by decide
theorem test_table_word_wire : decodeTableWord 8 0xFA = some .cNg := by decide
theorem test_table_word_too_wide : decodeTableWord 16 0x01 = none := by decide

/-! ### Meanings: vectors of 95_test_vectors.md, part 2 -/

/-- What a command leaves: STATUS, ERR_INFO and one more thing. -/
def after {α : Type} (i : Instr) (s : State) (look : State → α) : Option (BitVec 16 × Byte × α) :=
  (nextOf (exec i s)).map fun t => (statusWord t, t.flags.errInfo, look t)

/-- V1: "0xfE", mixed case. -/
theorem test_addrvT_mixed_case :
    after .addrvT (withText0 4#8 [0x30#8, 0x78#8, 0x66#8, 0x45#8] State.reset) (·.regs.res8) =
      some (0x0002#16, 0x00#8, 0xFE#8) := by decide

/-- V1: "0x9:", one past '9'. -/
theorem test_addrvT_bad_digit :
    after .addrvT (withText0 4#8 [0x30#8, 0x78#8, 0x39#8, 0x3A#8] State.reset) (·.regs.res8) =
      some (0x0016#16, 0x01#8, 0x00#8) := by decide

/-- V1: 255. -/
theorem test_addrvN_largest :
    after .addrvN { State.reset with regs := { Regs.reset with num0 := 255#16 } } (·.regs.res8) =
      some (0x0002#16, 0x00#8, 0xFF#8) := by decide

/-- V1: 256. -/
theorem test_addrvN_out_of_range :
    after .addrvN { State.reset with regs := { Regs.reset with num0 := 256#16 } } (·.regs.res8) =
      some (0x0016#16, 0x01#8, 0x00#8) := by decide

/-- The operands of V1's first SINIT row: "0xE0", "0x94", 3. -/
def sinitOperands : State :=
  withText1 4#8 [0x30#8, 0x78#8, 0x39#8, 0x34#8] (withText0 4#8 [0x30#8, 0x78#8, 0x45#8, 0x30#8]
    { State.reset with regs := { Regs.reset with attIn := 3#8 } })

theorem test_sinit_success :
    after .sinit sinitOperands (·.session) =
      some (0x000A#16, 0x00#8, { ctrl := 0xE0#8, xcvr := 0x94#8, maxAtt := 3#8 }) := by decide

/-- V1: both texts invalid. -/
theorem test_sinit_both_invalid :
    after .sinit { sinitOperands with regs := { sinitOperands.regs with txt0Len := 5#8, txt1Len := 2#8 } }
      (·.session.maxAtt) = some (0x0016#16, 0x03#8, 0#8) := by decide

/-- V2: 1_234_567. -/
theorem test_bcdenc_known :
    after .bcdenc (withFreq 1234567 State.reset) bcdField =
      some (0x0002#16, 0x00#8, [0x67#8, 0x45#8, 0x23#8, 0x01#8, 0x00#8]) := by decide

/-- V2: 10_000_000_000. -/
theorem test_bcdenc_too_large :
    after .bcdenc (withFreq 10000000000 State.reset) bcdField =
      some (0x0046#16, 0x02#8, [0#8, 0#8, 0#8, 0#8, 0#8]) := by decide

/-- V3: 99 99 99 99 99. -/
theorem test_bcddec_largest :
    after .bcddec (withBytes 0x48 [0x99#8, 0x99#8, 0x99#8, 0x99#8, 0x99#8] State.reset)
      (fun t => (t.regs.res, t.regs.resRem, t.regs.resDen)) =
      some (0x0002#16, 0x00#8, 9999999999#66, 0#33, 1#33) := by decide

/-- V3: FF FF 00 00 00, the lowest bad index. -/
theorem test_bcddec_lowest_bad_index :
    after .bcddec (withBytes 0x48 [0xFF#8, 0xFF#8] State.reset) (·.regs.res) = some (0x0056#16, 0x00#8, 0#66) := by
  decide

/-- V4: 12 00, the first byte is no packed decimal. -/
theorem test_pair2i_binary_hundreds :
    after .pair2i (withBytes 0x50 [0x12#8, 0x00#8] State.reset) (·.regs.res) = some (0x0002#16, 0x00#8, 1800#66) := by
  decide

/-- V4: FF FF, the largest result. -/
theorem test_pair2i_literal_nibbles :
    after .pair2i (withBytes 0x50 [0xFF#8, 0xFF#8] State.reset) (·.regs.res) =
      some (0x0002#16, 0x00#8, 25665#66) := by decide

/-- V5: table B at 240, in its second segment. -/
theorem test_interp_second_segment :
    after .interp (withTable [(0, 0), (120, 100), (241, 200)] 240 State.reset)
      (fun t => (t.regs.res, t.regs.resRem, t.regs.resDen)) =
      some (0x0002#16, 0x00#8, 199#66, 21#33, 121#33) := by decide

/-- V5: [(0,0),(3,-10)] at 1, rounding toward minus infinity. -/
theorem test_interp_falling :
    after .interp (withTable [(0, 0), (3, -10)] 1 State.reset)
      (fun t => (t.regs.res.toInt, t.regs.resRem, t.regs.resDen)) = some (0x0002#16, 0x00#8, -4, 2#33, 3#33) := by
  decide

/-- V6: a reversed old range. -/
theorem test_rescale_reversed :
    after .rescale (withRange 5 10 0 0 100 State.reset) (fun t => (t.regs.res, t.regs.resRem, t.regs.resDen)) =
      some (0x0002#16, 0x00#8, 50#66, 0#33, 10#33) := by decide

/-- V6: the most negative result. -/
theorem test_rescale_most_negative :
    after .rescale (withRange (-2147483648) 2147483647 2147483646 2147483647 (-2147483648) State.reset)
      (fun t => (t.regs.res.toInt, t.regs.resDen)) =
      some (0x0002#16, 0x00#8, -18446744062972133378, 1#33) := by decide

/-- V6: 19200. -/
theorem test_prelut_entry :
    after .prelut (State.reset.withEnv { Env.reset with tpBaud := 19200#32 }) (·.regs.res8) =
      some (0x0002#16, 0x00#8, 25#8) := by decide

/-- V6: 115201, off by one. -/
theorem test_prelut_off_by_one :
    after .prelut (State.reset.withEnv { Env.reset with tpBaud := 115201#32 }) (·.regs.res8) =
      some (0x0002#16, 0x00#8, 7#8) := by decide

/-- V7: opcode 18 01, two preamble bytes. -/
theorem test_fenc_preamble :
    after .fenc (withFrame 2#3 [0x18#8, 0x01#8] 0#16 []
      { State.reset with regs := { Regs.reset with fdst := 0x94#8, fsrc := 0xE0#8, preCnt := 2#8 } }) txFrame =
      some (0x0002#16, 0x00#8, [0xFE#8, 0xFE#8, 0xFE#8, 0xFE#8, 0x94#8, 0xE0#8, 0x18#8, 0x01#8, 0xFD#8]) := by decide

/-- V7: PAY_LEN = 65 over PAY_MAX = 64. -/
theorem test_fenc_payload_too_long :
    after .fenc (withFrame 1#3 [0x03#8] 65#16 [] State.reset) (·.regs.txLen) =
      some (0x0036#16, 0x04#8, 0#16) := by decide

/-- V8: FE FE FD, no source byte. -/
theorem test_fdec_no_source :
    after .fdec (withCandidate [0xFE#8, 0xFE#8, 0xFD#8] State.reset)
      (fun t => (t.regs.rplDst, t.regs.rplSrc, t.regs.rplSt)) =
      some (0x0002#16, 0x00#8, 0xFD#8, 0x00#8, 0xFE#8) := by decide

/-- V8: FE FE E0 94 FB FD. -/
theorem test_fdec_acknowledge :
    after .fdec (withCandidate reply State.reset) (fun t => (t.regs.rplDst, t.regs.rplSrc, t.regs.rplSt)) =
      some (0x0202#16, 0x00#8, 0xE0#8, 0x94#8, 0xFB#8) := by decide

/-- V7, first row, with the Session's addresses: the frame is built and WRITE begins (STATUS = BUSY, SVALID, FSM 1). -/
theorem test_xchg_starts : after .xchg session txFrame = some (0x0409#16, 0x00#8, frame) := by decide

/-- R201: no Session. -/
theorem test_xchg_no_session :
    after .xchg (withFrame 1#3 [0x03#8] 0#16 [] State.reset) (·.regs.txLen) =
      some (0x0036#16, 0x02#8, 0#16) := by decide

/-- R73: C_TERM ends the read; FSM is CLASSIFY. -/
theorem test_cTerm_ends_the_read :
    after .cTerm (running .read 0#8 6) candidate = some (0x0C09#16, 0x00#8, [0xFD#8]) := by decide

/-- R103: C_PRE / C_MARK is an ordinary byte on receive; FSM stays READ. -/
theorem test_cPreMark_is_appended :
    after .cPreMark (running .read 0#8 6) candidate = some (0x0809#16, 0x00#8, [0xFE#8]) := by decide

/-- R103, R112: C_OK is an ordinary byte on receive. -/
theorem test_cOk_is_appended :
    after .cOk (running .read 0#8 6) candidate = some (0x0809#16, 0x00#8, [0xFB#8]) := by decide

/-- R215: C_NG does nothing on reception ... -/
theorem test_cNg_is_appended :
    after .cNg (running .read 0#8 6) candidate = some (0x0809#16, 0x00#8, [0xFA#8]) := by decide

/-- ... and R71: outside a read the Transport keeps it. -/
theorem test_cNg_is_held :
    after .cNg (running .write 0#8 0) (·.env.rxQueue) = some (0x0409#16, 0x00#8, [0xFA#8]) := by decide

/-- R215: at classification it rejects (STATUS of P4: DONE, ERR, SVALID, code 6, RPL_SRC_OK). -/
theorem test_classify_negative :
    (nextOf (step (withCandidate [0xFE#8, 0xFE#8, 0xE0#8, 0x94#8, 0xFA#8, 0xFD#8] (running .classify 0#8 6)))).map
      (fun t => (statusWord t, t.flags.errInfo)) = some (0x026E#16, 0xFA#8) := by decide

/-- R217: the last attempt of a budget of 3 (STATUS 0x007E). -/
theorem test_classify_timeout :
    (nextOf (step (running .classify 2#8 6))).map (fun t => (statusWord t, t.flags.errInfo, t.seq.attempts)) =
      some (0x007E#16, 0x03#8, 3#8) := by decide

/-- R61: a number outside the map reads as 0, a number outside the space stops the machine. -/
theorem test_unmapped_read :
    (nextOf (step (withTurns [.host (.read 0x3F)] State.reset))).map (·.env.hRdata) = some 0#66 := by decide

theorem test_outside_space :
    step (withTurns [.host (.read 0x4000)] State.reset) = .fault (.registerOutsideSpace 0x4000) := by rfl

/-- D21: a write to an unmapped number while BUSY = 1 sets DROPPED like any other (STATUS 0x0909 of V11). -/
theorem test_unmapped_write_while_busy :
    (nextOf (step (withTurns [.host (.write 0x3F 1#66)] (running .read 0#8 6)))).map statusWord = some 0x0909#16 := by
  decide

/-- R220: an empty schedule is taken up again from the cycle. -/
theorem test_cycle_begins_again :
    (nextOf (step { State.reset with env := { Env.reset with cycle := [.arrive 0x11#8, .reset] } })).map
      (fun t => (t.env.rxQueue, t.env.schedule, t.env.cycle)) =
      some ([0x11#8], [.reset], [.arrive 0x11#8, .reset]) := by decide

/-- Where `withFetchWord` places a command and a wire constant, the next step runs it. -/
theorem test_fetch_word_command :
    (nextOf (step (State.reset.withFetchWord 8 0x06))).map statusWord = some 0x0002#16 := by decide

theorem test_fetch_word_wire :
    (nextOf (step (State.reset.withFetchWord 8 0xFD))).map candidate = some [0xFD#8] := by decide

/-! ### Witnesses: for every statement with hypotheses, a state and operands that meet them -/

/-- A step from `s` answers a next state. -/
def steps (s : State) : Bool := (nextOf (step s)).isSome

theorem steps_witness {s : State} (h : steps s = true) : ∃ t, step s = .next t := by
  cases hs : step s with
  | next t => exact ⟨t, rfl⟩
  | fault r => simp [steps, nextOf, hs] at h
  | refused r => simp [steps, nextOf, hs] at h

/-- No reset is next. -/
theorem no_reset {s : State} (h : (nextTurn s.env).1 ≠ .reset) : ¬ resetTurn s := h

/-- The number of the register the next turn writes, if it is a host write. -/
def writes (s : State) : Option Nat :=
  match (nextTurn s.env).1 with
  | .host (.write n _) => some n
  | _ => none

/-- No command is next. -/
theorem no_command {s : State} {i : Instr} (h : writes s ≠ some 0) : ¬ commandTurn i s := by
  rintro ⟨v, hs, -⟩
  simp [writes, hs] at h

theorem witness_DecodeInvertsEncode :
    Instr.wf .wire .cNg = true ∧ decode .command 0x0C#8 = .ok .xchg := by decide

theorem witness_StepRunsTheDecodedCommand :
    nextTurn (withTurns [.host (.write 0 0x109#66)] State.reset).env = (.host (.write 0 0x109#66), []) ∧
      decodeCommand ((0x109#66).setWidth 8) = .ok .prelut := by decide

theorem witness_StepRunsTheDecodedWireByte :
    let s := withTurns [.edge busyPins] (withHeld [0xFD#8, 0x11#8] (running .read 0#8 6))
    nextTurn s.env = (.edge busyPins, []) ∧ (busyPins.rxErr = false ∧ busyPins.rxValid = true) ∧ s.seq.fsm = .read ∧
      s.env.rxQueue = [0xFD#8, 0x11#8] ∧ decodeWire 0xFD#8 = .ok .cTerm := by decide

/-- A bit of 7:4 set, at either end; and each reserved selector. -/
theorem witness_ReservedWordsFail :
    State.reset.flags.busy = false ∧ BitVec.extractLsb' 4 4 (0x11#66) ≠ 0#4 ∧ BitVec.extractLsb' 4 4 (0x8C#66) ≠ 0#4 ∧
      BitVec.extractLsb' 0 4 (0x00#66) ∈ [0#4, 0xD#4, 0xE#4, 0xF#4] ∧
      BitVec.extractLsb' 0 4 (0x0D#66) ∈ [0#4, 0xD#4, 0xE#4, 0xF#4] ∧
      BitVec.extractLsb' 0 4 (0x0F#66) ∈ [0#4, 0xD#4, 0xE#4, 0xF#4] := by decide

/-- The first number and the last, which is unmapped; a readable register. -/
theorem witness_AccessesWhileBusy :
    let s := running .write 0#8 0
    s.flags.busy = true ∧ 0 < 0x4000 ∧ 0x3FFF < 0x4000 ∧
      nextTurn (withTurns [.host (.write 0x3FFF 1#66)] s).env = (.host (.write 0x3FFF 1#66), []) ∧
      nextTurn (withTurns [.host (.read 7)] s).env = (.host (.read 7), []) := by decide

theorem witness_HostReadsHaveNoSideEffect :
    0x3FFF < 0x4000 ∧ nextTurn (withTurns [.host (.read 0x3FFF)] State.reset).env = (.host (.read 0x3FFF), []) := by decide

theorem witness_StatusReadsItsFields :
    nextTurn (withTurns [.host (.read 1)] (running .read 0#8 6)).env = (.host (.read 1), []) := by decide

/-- The first and the last register, one signed and one not. -/
theorem witness_ScalarRegistersReadBack :
    (0x08, 8, false) ∈ writableScalars ∧ (0x1D, 16, false) ∈ writableScalars ∧ (0x0C, 64, true) ∈ writableScalars ∧
      State.reset.flags.busy = false ∧
      (withTurns [.host (.write 0x0C 5#66), .host (.read 0x0C)] State.reset).env.schedule =
        [.host (.write 0x0C 5#66), .host (.read 0x0C)] := by decide

/-- A write, with a bit above the register's width, to the first and to the last register. -/
theorem witness_ScalarRegistersReadBack_stored :
    (0x08, { Regs.reset with txt0Len := 0x12#8 }) ∈ storedBy 0x312#66 Regs.reset ∧
      (0x1D, { Regs.reset with rxLen := 0x312#16 }) ∈ storedBy 0x10312#66 Regs.reset ∧
      State.reset.flags.busy = false ∧
      nextTurn (withTurns [.host (.write 0x1D 0x10312#66)] State.reset).env =
        (.host (.write 0x1D 0x10312#66), []) := by decide

/-- The first and the last scalar register; both ends of PAY and of the two point arrays; the first byte of each buffer;
both ends of the unmapped numbers. -/
theorem witness_HostReadsDeliverTheirRegister :
    let s := withCandidate reply (running .idle 0#8 6)
    let u := withTurns [.host (.read 0x140F)] { s with flags := { s.flags with busy := false } }
    (u.params.wf = true ∧ u.flags.busy = false) ∧
      ((0x00, 0#66) ∈ scalarValues u ∧ (0x20, 0#66) ∈ scalarValues u) ∧
      (∀ n ∈ [0x100, 0x13F], isOperandByte u.params n) ∧ (∀ n ∈ [0x1000, 0x140F], isPoint u.params n) ∧
      (5 < u.regs.txLen.toNat ∧ 5 < u.params.txMax) ∧ (5 < u.regs.rxLen.toNat ∧ 5 < u.params.rxMax) ∧
      (∀ n ∈ [0x21, 0x3FFF], isUnmapped u.params n) ∧ nextTurn u.env = (.host (.read 0x140F), []) :=
  ⟨by decide, by decide, by decide, by decide, by decide, by decide, by decide, by decide⟩

/-- Both ends of each array, of the RXBUF window and of the breakpoint table. -/
theorem witness_OperandByteWritesAreExact :
    let p := State.reset.params
    p.wf = true ∧ Memory.wf State.reset.mem = true ∧ PointTable.wf State.reset.points = true ∧
      State.reset.flags.busy = false ∧
      (∀ n ∈ [0x40, 0x4C, 0x50, 0x51, 0x54, 0x57, 0x100, 0x13F], isOperandByte p n) ∧
      (∀ n ∈ [0x3000, 0x3147], 0x3000 ≤ n ∧ n < 0x3000 + p.rxMax) ∧
      (∀ n ∈ [0x1000, 0x100F, 0x1400, 0x140F], isPoint p n) ∧
      nextTurn (withTurns [.host (.write 0x3147 1#66)] State.reset).env = (.host (.write 0x3147 1#66), []) := by
  decide

/-- Both ends of each range. -/
theorem witness_UnwritableNumbersIgnoreWrites :
    session.params.wf = true ∧ session.flags.busy = false ∧
      (∀ n ∈ [0x21, 0x3F, 0x4D, 0x4F, 0x52, 0x53, 0x58, 0xFF, 0x140, 0xFFF, 0x1010, 0x13FF, 0x1410, 0x1FFF, 0x2148,
        0x2FFF, 0x3148, 0x3FFF], isUnmapped session.params n) ∧
      (∀ n ∈ [1, 7, 0x13, 0x16, 0x1C, 0x1E, 0x20, 0x2000, 0x2147], isReadOnly session.params n) ∧
      nextTurn (withTurns [.host (.write 0x52 1#66)] session).env = (.host (.write 0x52 1#66), []) := by decide

theorem witness_OneStepOperationsComplete :
    Instr.wf .command .interp = true ∧ Instr.interp ≠ .xchg ∧ State.reset.flags.busy = false := by decide

theorem witness_FailuresAtTheCommandArePrecise :
    Instr.wf .command .xchg = true ∧ State.reset.flags.busy = false ∧
      (nextOf (exec .xchg State.reset)).map (·.flags.err) = some true := by decide

theorem witness_ParseAddrAcceptsTheFixedForm : [0x30#8, 0x78#8, 0x45#8, 0x30#8].length = 4 := by decide

/-- A valid text, and one that is not. -/
theorem witness_AddrvTValidatesText :
    let s := withText0 4#8 [0x30#8, 0x78#8, 0x45#8, 0x30#8] State.reset
    let u := withText0 5#8 [0x30#8, 0x78#8, 0x45#8, 0x30#8] State.reset
    s.flags.busy = false ∧ parseAddr s.regs.txt0Len (cellReadSeq s.mem 0x40 4) = some 0xE0#8 ∧
      u.flags.busy = false ∧ parseAddr u.regs.txt0Len (cellReadSeq u.mem 0x40 4) = none := by decide

theorem witness_AddrvNValidatesANumber :
    State.reset.flags.busy = false ∧ (0xFF#16).toNat ≤ 0xFF ∧ 0xFF < (0x100#16).toNat := by decide

/-- The two texts of SINIT as the statement reads them. -/
def texts (s : State) : Option Byte × Option Byte :=
  (parseAddr s.regs.txt0Len (cellReadSeq s.mem 0x40 4), parseAddr s.regs.txt1Len (cellReadSeq s.mem 0x44 4))

/-- Each of the six outcomes. -/
theorem witness_SinitConstructsTheSession :
    let s := sinitOperands
    (s.flags.busy = false ∧ s.flags.svalid = false ∧ texts s = (some 0xE0#8, some 0x94#8) ∧ s.regs.attIn ≠ 0#8) ∧
    texts { s with regs := { s.regs with txt0Len := 3#8 } } = (none, some 0x94#8) ∧
    texts { s with regs := { s.regs with txt1Len := 5#8 } } = (some 0xE0#8, none) ∧
    texts { s with regs := { s.regs with txt0Len := 3#8, txt1Len := 5#8 } } = (none, none) ∧
    State.reset.regs.attIn = 0#8 ∧ (session.flags.busy = false ∧ session.flags.svalid = true) := by decide

theorem witness_TheSessionIsImmutable :
    session.flags.svalid = true ∧ ¬ resetTurn (withTurns [.host (.write 0 3#66)] session) ∧
      ∃ t, step (withTurns [.host (.write 0 3#66)] session) = .next t :=
  ⟨by decide, no_reset (by decide), steps_witness (by decide)⟩

/-- Both ends of the range, and a value past each. -/
theorem witness_BcdencWritesTheDigits :
    State.reset.flags.busy = false ∧ Memory.wf State.reset.mem = true ∧
      (∀ f ∈ [(0 : Int), 9999999999], 0 ≤ (withFreq f State.reset).regs.freqIn.toInt ∧
        (withFreq f State.reset).regs.freqIn.toInt ≤ 9999999999) ∧
      (withFreq (-1) State.reset).regs.freqIn.toInt < 0 ∧
      9999999999 < (withFreq 10000000000 State.reset).regs.freqIn.toInt := by decide

/-- Every nibble 9; a bad low nibble in the first byte, a bad high nibble in the last. -/
theorem witness_BcddecReadsTheDigits :
    let s := withBytes 0x48 [0x99#8, 0x99#8, 0x99#8, 0x99#8, 0x99#8] State.reset
    let u := withBytes 0x48 [0x0A#8] State.reset
    let v := withBytes 0x48 [0x99#8, 0x99#8, 0x99#8, 0x99#8, 0xA0#8] State.reset
    (s.flags.busy = false ∧
      ∀ i < 5, (cellRead s.mem (0x48 + i)).toNat / 16 ≤ 9 ∧ (cellRead s.mem (0x48 + i)).toNat % 16 ≤ 9) ∧
    9 < (cellRead u.mem (0x48 + 0)).toNat % 16 ∧
    (9 < (cellRead v.mem (0x48 + 4)).toNat / 16 ∧
      ∀ j < 4, (cellRead v.mem (0x48 + j)).toNat / 16 ≤ 9 ∧ (cellRead v.mem (0x48 + j)).toNat % 16 ≤ 9) := by decide

theorem witness_BcdRoundTrips :
    let s := withFreq 1234567 (withBytes 0x48 [0x67#8, 0x45#8, 0x23#8, 0x01#8] State.reset)
    s.flags.busy = false ∧ Memory.wf s.mem = true ∧ 0 ≤ s.regs.freqIn.toInt ∧ s.regs.freqIn.toInt ≤ 9999999999 ∧
      ∀ i < 5, (cellRead s.mem (0x48 + i)).toNat / 16 ≤ 9 ∧ (cellRead s.mem (0x48 + i)).toNat % 16 ≤ 9 := by decide

theorem witness_Pair2iComposesThePair : State.reset.flags.busy = false := by decide

/-- Table B: the clamp at each end, the middle breakpoint, and the inside of the last segment. -/
theorem witness_InterpEvaluatesTheTable :
    let s := fun x => withTable [(0, 0), (120, 100), (241, 200)] x State.reset
    ((s 0).flags.busy = false ∧ 1 ≤ (s 0).regs.npoints.toNat ∧ (s 0).regs.npoints.toNat ≤ (s 0).params.maxPoints ∧
      (s 0).regs.npoints.toNat = 3 ∧ ∀ i < 2, ptRaw (s 0) i < ptRaw (s 0) (i + 1)) ∧
    (s 0).regs.xIn.toInt ≤ ptRaw (s 0) 0 ∧ ptRaw (s 241) (3 - 1) ≤ (s 241).regs.xIn.toInt ∧
    (s 120).regs.xIn.toInt = ptRaw (s 120) 1 ∧
    (ptRaw (s 240) 1 < (s 240).regs.xIn.toInt ∧ (s 240).regs.xIn.toInt < ptRaw (s 240) (1 + 1)) := by decide

theorem witness_InterpResultIsExact :
    let s := withTable [(0, 0), (3, -10)] 1 State.reset
    s.flags.busy = false ∧ s.regs.npoints.toNat ≤ s.params.maxPoints ∧ s.regs.npoints.toNat = 2 ∧
      (∀ i < 1, ptRaw s i < ptRaw s (i + 1)) ∧ 0 + 1 < s.regs.npoints.toNat ∧ ptRaw s 0 < s.regs.xIn.toInt ∧
      s.regs.xIn.toInt < ptRaw s (0 + 1) := by decide

/-- No point; one more than the table holds; equal raws. -/
theorem witness_InterpChecksItsTable :
    let u := { State.reset with regs := { Regs.reset with npoints := 17#8 } }
    let v := withTable [(0, 0), (0, 1)] 0 State.reset
    State.reset.flags.busy = false ∧ State.reset.regs.npoints.toNat = 0 ∧
      (0 < u.regs.npoints.toNat ∧ u.params.maxPoints < u.regs.npoints.toNat) ∧
      (v.regs.npoints.toNat ≤ v.params.maxPoints ∧ 0 + 1 < v.regs.npoints.toNat ∧ ptRaw v (0 + 1) ≤ ptRaw v 0) := by
  decide

/-- A degenerate old range, and one that is not. -/
theorem witness_RescaleIsTheAffineMap :
    State.reset.flags.busy = false ∧ State.reset.regs.oldMax.toInt - State.reset.regs.oldMin.toInt = 0 ∧
      (withRange 5 10 0 0 100 State.reset).regs.oldMax.toInt - (withRange 5 10 0 0 100 State.reset).regs.oldMin.toInt ≠
        0 := by decide

/-- X_IN at each end of the old range. -/
theorem witness_RescaleMeetsItsEndPoints :
    let s := withRange 10 10 0 0 100 State.reset
    let u := withRange 0 10 0 0 100 State.reset
    (s.flags.busy = false ∧ s.regs.oldMin ≠ s.regs.oldMax ∧ s.regs.xIn = s.regs.oldMin) ∧
      (u.regs.oldMin ≠ u.regs.oldMax ∧ u.regs.xIn = u.regs.oldMax) := by decide

theorem witness_PrelutLooksUpTheLinkSpeed : State.reset.flags.busy = false := by decide

/-- Opcode lengths 1 and 4 and a payload of PAY_MAX; opcode lengths 0 and 5; a payload of PAY_MAX + 1. -/
theorem witness_FencBuildsTheFrame :
    let s := withFrame 4#3 [] 64#16 [] State.reset
    let u := withFrame 1#3 [] 65#16 [] State.reset
    (s.flags.busy = false ∧ s.params.wf = true ∧ Memory.wf s.mem = true ∧ lengthsAccepted s) ∧
      (State.reset.regs.opcLen.toNat < 1 ∧ 4 < (5#3).toNat) ∧
      (1 ≤ u.regs.opcLen.toNat ∧ u.regs.opcLen.toNat ≤ 4 ∧ u.params.payMax < u.regs.payLen.toNat) := by
  unfold lengthsAccepted
  decide

/-- RXLEN = 329, 2, 3 and 4. -/
theorem witness_FdecExposesTheFields :
    State.reset.flags.busy = false ∧ State.reset.params.rxMax < (329#16).toNat ∧ (2#16).toNat ≤ 2 ∧
      ((3#16).toNat ≤ State.reset.params.rxMax ∧ (3#16).toNat = 3) ∧
      ((4#16).toNat ≤ State.reset.params.rxMax ∧ 4 ≤ (4#16).toNat) := by decide

/-- No Session; opcode length 5; a payload of PAY_MAX + 1. -/
theorem witness_XchgChecksBeforeAnyIo :
    let u := withFrame 5#3 [] 0#16 [] session
    let v := withFrame 1#3 [] 65#16 [] session
    (State.reset.flags.busy = false ∧ State.reset.flags.svalid = false) ∧
      (u.flags.busy = false ∧ u.flags.svalid = true ∧ 4 < u.regs.opcLen.toNat) ∧
      (v.flags.busy = false ∧ v.flags.svalid = true ∧ 1 ≤ v.regs.opcLen.toNat ∧ v.regs.opcLen.toNat ≤ 4 ∧
        v.params.payMax < v.regs.payLen.toNat) := by decide

theorem witness_XchgBuildsAndStartsTheWrite :
    session.flags.busy = false ∧ session.params.wf = true ∧ Memory.wf session.mem = true ∧
      session.flags.svalid = true ∧ lengthsAccepted session := by
  unfold lengthsAccepted
  decide

/-- A failed write, a wait, a byte that is not the last, the last byte. -/
theorem witness_WriteStepsHandOverBytes :
    let s := withTurns [.edge busyPins] (running .write 0#8 4)
    let u := withTurns [.edge busyPins] (running .write 0#8 5)
    (s.seq.fsm = .write ∧ nextTurn s.env = (.edge busyPins, []) ∧ s.seq.txIdx.toNat + 1 < s.regs.txLen.toNat ∧
      1 ≤ s.session.maxAtt.toNat) ∧
    (u.seq.fsm = .write ∧ u.seq.txIdx.toNat < u.regs.txLen.toNat ∧ u.seq.txIdx.toNat + 1 = u.regs.txLen.toNat) ∧
    (busyPins.txErr = false ∧ busyPins.txReady = true) ∧ errorPins.txErr = true ∧
    (TransportPins.silent.txErr = false ∧ TransportPins.silent.txReady = false) := by decide

/-- RXLEN one below RX_MAX; the byte a C_TERM and not. -/
theorem witness_ReceivedBytesAreAppended :
    let s := running .read 0#8 6
    let u := withTurns [.edge busyPins] (withHeld [0xFD#8, 0x03#8] { s with regs := { s.regs with rxLen := 327#16 } })
    u.seq.fsm = .read ∧ nextTurn u.env = (.edge busyPins, []) ∧ (busyPins.rxErr = false ∧ busyPins.rxValid = true) ∧
      u.env.rxQueue = [0xFD#8, 0x03#8] ∧ u.params.wf = true ∧ Memory.wf u.mem = true ∧
      u.regs.rxLen.toNat < u.params.rxMax := by decide

theorem witness_WireConstantsAreReceived :
    let s := running .read 0#8 6
    let u := { s with regs := { s.regs with rxLen := 327#16 } }
    (∀ i ∈ [Instr.cPreMark, .cTerm, .cOk, .cNg], i.wf .wire = true) ∧ u.seq.fsm = .read ∧ u.params.wf = true ∧
      Memory.wf u.mem = true ∧ u.regs.rxLen.toNat < u.params.rxMax := by decide

/-- An edge that offers a byte outside a read; the arrival of one during a read. -/
theorem witness_BytesAreHeldOutsideARead :
    let s := withTurns [.edge busyPins] (withHeld [0xFD#8] (running .classify 0#8 6))
    s.seq.fsm ≠ .read ∧ (∃ t, step s = .next t) ∧ Instr.wf .wire .cOk = true ∧
      nextTurn (withTurns [.arrive 0xFD#8] (running .read 0#8 6)).env = (.arrive 0xFD#8, []) :=
  ⟨by decide, steps_witness (by decide), by decide⟩

/-- A timeout, a read error, a full buffer. -/
theorem witness_ReadsEndOtherwise :
    let s := withTurns [.edge timeoutPins] (running .read 0#8 6)
    let u := withHeld [0x03#8] { s with regs := { s.regs with rxLen := 328#16 } }
    (s.seq.fsm = .read ∧ nextTurn s.env = (.edge timeoutPins, [])) ∧
      (timeoutPins.rxErr = false ∧ timeoutPins.rxValid = false ∧ timeoutPins.rxTimeout = true) ∧
      errorPins.rxErr = true ∧
      (u.seq.fsm = .read ∧ u.env.rxQueue = [0x03#8] ∧ u.regs.rxLen.toNat = u.params.rxMax) := by decide

/-- Every event presented at once; then all but the read error. -/
theorem witness_SimultaneousEventsAreOrdered :
    (running .write 0#8 0).seq.fsm = .write ∧ errorPins.txErr = true ∧ (running .read 0#8 6).seq.fsm = .read ∧
      errorPins.rxErr = true ∧ { errorPins with rxErr := false }.rxErr = false ∧
      { errorPins with rxErr := false }.rxValid = true ∧
      (withHeld [0x03#8] (running .read 0#8 6)).env.rxQueue = [0x03#8] := by decide

/-- A classification with candidate `c`. -/
def classifying (attempts : BitVec 8) (c : List Byte) : State :=
  withTurns [.edge .silent] (withCandidate c (running .classify attempts 6))

theorem witness_EchoesAreDiscardedFree :
    let s := classifying 2#8 frame
    s.seq.fsm = .classify ∧ nextTurn s.env = (.edge .silent, []) ∧ s.seq.attempts.toNat < s.session.maxAtt.toNat ∧
      candidate s = txFrame s := by decide

/-- The longest silent candidate, with budget left and with none. -/
theorem witness_SilenceConsumesAnAttempt :
    let s := classifying 1#8 [0x11#8, 0xFD#8]
    let u := classifying 2#8 [0x11#8, 0xFD#8]
    (s.seq.fsm = .classify ∧ nextTurn s.env = (.edge .silent, []) ∧ 6 ≤ s.regs.txLen.toNat ∧ s.regs.rxLen.toNat ≤ 2 ∧
      s.seq.attempts.toNat + 1 < s.session.maxAtt.toNat) ∧
    (u.seq.fsm = .classify ∧ u.seq.attempts.toNat + 1 = u.session.maxAtt.toNat) := by decide

/-- Length 3; length 4 with a wrong destination; with a wrong source. -/
theorem witness_ForeignTrafficIsDiscardedFree :
    let s := classifying 2#8 [0xFE#8, 0xE0#8, 0xFD#8]
    let u := classifying 2#8 [0xFE#8, 0xFE#8, 0xE1#8, 0x94#8]
    let v := classifying 2#8 [0xFE#8, 0xFE#8, 0xE0#8, 0x95#8]
    (s.seq.fsm = .classify ∧ nextTurn s.env = (.edge .silent, []) ∧ s.seq.attempts.toNat < s.session.maxAtt.toNat ∧
      candidate s ≠ txFrame s ∧ s.regs.rxLen.toNat = 3) ∧
    (candidate u ≠ txFrame u ∧ 4 ≤ u.regs.rxLen.toNat ∧ cellRead u.mem 0x3002 ≠ u.session.ctrl) ∧
    (candidate v ≠ txFrame v ∧ 4 ≤ v.regs.rxLen.toNat ∧ cellRead v.mem 0x3003 ≠ v.session.xcvr) := by decide

/-- The shortest matching candidate, not NG; and one that is. -/
theorem witness_MatchingRepliesEndTheExchange :
    let s := classifying 2#8 [0xFE#8, 0xFE#8, 0xE0#8, 0x94#8]
    let u := classifying 2#8 [0xFE#8, 0xFE#8, 0xE0#8, 0x94#8, 0xFA#8, 0xFD#8]
    (s.seq.fsm = .classify ∧ nextTurn s.env = (.edge .silent, []) ∧ candidate s ≠ txFrame s ∧ 4 ≤ s.regs.rxLen.toNat ∧
      cellRead s.mem 0x3002 = s.session.ctrl ∧ cellRead s.mem 0x3003 = s.session.xcvr ∧
      cellRead s.mem (0x3000 + (s.regs.rxLen.toNat - 2)) ≠ 0xFA#8) ∧
    (candidate u ≠ txFrame u ∧ 4 ≤ u.regs.rxLen.toNat ∧ cellRead u.mem 0x3002 = u.session.ctrl ∧
      cellRead u.mem 0x3003 = u.session.xcvr ∧
      cellRead u.mem (0x3000 + (u.regs.rxLen.toNat - 2)) = 0xFA#8) := by decide

theorem witness_TheWholeFrameIsWrittenInOrder :
    let s := withTurns (edges 6 busyPins ++ [.edge .silent]) (running .write 1#8 0)
    s.seq.fsm = .write ∧ s.seq.txIdx = 0#16 ∧ 1 ≤ s.regs.txLen.toNat ∧ 1 ≤ s.session.maxAtt.toNat ∧
      (busyPins.txErr = false ∧ busyPins.txReady = true) ∧
      s.env.schedule = edges s.regs.txLen.toNat busyPins ++ [.edge .silent] := by decide

theorem witness_AReadDeliversTheCandidate :
    let s := withTurns (edges 6 busyPins) (withHeld (reply ++ [0x11#8]) (running .read 0#8 6))
    terminated s reply ∧ s.seq.fsm = .read ∧ s.regs.rxLen = 0#16 ∧ s.params.wf = true ∧ Memory.wf s.mem = true ∧
      offering busyPins ∧ s.env.rxQueue = reply ++ [0x11#8] ∧ s.env.schedule = edges reply.length busyPins ++ [] :=
  ⟨⟨reply.dropLast, by decide⟩, by decide⟩

/-- Two attempts left; the number of silent reads before the end is then 0 or 1. -/
theorem witness_SilenceExhaustsTheBudget :
    let s := withTurns (silentReads 2 timeoutPins busyPins) (running .read 1#8 6)
    s.seq.fsm = .read ∧ s.regs.rxLen = 0#16 ∧ 6 ≤ s.regs.txLen.toNat ∧
      s.seq.attempts.toNat < s.session.maxAtt.toNat ∧ timingOut timeoutPins ∧
      s.env.schedule = silentReads (s.session.maxAtt.toNat - s.seq.attempts.toNat) timeoutPins busyPins ++ [] ∧
      0 < s.session.maxAtt.toNat - s.seq.attempts.toNat ∧ 1 < s.session.maxAtt.toNat - s.seq.attempts.toNat := by
  decide

/-- Traffic between another pair. -/
def stray : List Byte := [0x11#8, 0x22#8, 0x33#8, 0x44#8, 0xFD#8]

/-- An echo, then a candidate from another pair: once, and over and over. -/
theorem witness_FreeDiscardsNeverEndTheExchange :
    let r := running .read 2#8 6
    let s := withTurns (receiveAll [frame, stray] busyPins) (withHeld (frame ++ stray) r)
    let u := { r with env := { r.env with cycle := supply [frame, stray] busyPins } }
    (∀ c ∈ [frame, stray], terminated r c ∧ freeDiscard r c) ∧
    (r.seq.fsm = .read ∧ r.regs.rxLen = 0#16 ∧ r.flags.busy = true ∧ r.params.wf = true ∧ Memory.wf r.mem = true ∧
      r.seq.attempts.toNat < r.session.maxAtt.toNat ∧ r.regs.txLen.toNat ≤ r.params.txMax ∧ offering busyPins) ∧
    (s.env.rxQueue = [frame, stray].flatten ++ [] ∧ s.env.schedule = receiveAll [frame, stray] busyPins ++ []) ∧
    (u.env.rxQueue = [] ∧ u.env.schedule = [] ∧ u.env.cycle = supply [frame, stray] busyPins) := by
  refine ⟨?_, by decide⟩
  intro c hc
  simp only [List.mem_cons, List.not_mem_nil, or_false] at hc
  rcases hc with rfl | rfl
  · exact ⟨⟨frame.dropLast, by decide⟩, by decide⟩
  · exact ⟨⟨stray.dropLast, by decide⟩, by decide⟩

/-- Program P1 of 95_test_vectors.md in small. -/
theorem witness_EchoThenReplySucceeds :
    let turns : List Turn := .host (.write 0 0x0C#66) :: (edges (6 + (6 + 1) + (6 + 1)) busyPins ++ [])
    let s := withTurns turns (withHeld (frame ++ reply ++ []) session)
    terminated s reply ∧
    (s.flags.busy = false ∧ s.params.wf = true ∧ Memory.wf s.mem = true ∧ s.flags.svalid = true ∧
      1 ≤ s.session.maxAtt.toNat ∧ lengthsAccepted s ∧ accepting busyPins ∧ offering busyPins ∧
      builtFrame s.session.xcvr s.session.ctrl s = frame ∧ terminatorOnlyLast frame = true ∧ reply ≠ frame) ∧
    (4 ≤ reply.length ∧ reply.getD 2 0#8 = s.session.ctrl ∧ reply.getD 3 0#8 = s.session.xcvr ∧
      reply.getD (reply.length - 2) 0#8 ≠ 0xFA#8 ∧ s.env.rxQueue = frame ++ reply ++ [] ∧
      s.env.schedule =
        .host (.write 0 0x0C#66) ::
          (edges (frame.length + (frame.length + 1) + (reply.length + 1)) busyPins ++ [])) :=
  ⟨⟨reply.dropLast, by decide⟩, by decide⟩

/-- The frame of the reply above, with and without a payload; a preamble of 2. -/
theorem witness_EncodedFramesReadBack :
    let c := frameEncode 0xE0#8 0x94#8 [0x03#8] [0x00#8, 0x40#8] 0
    let s := withTurns (edges c.length busyPins) (withHeld c (running .read 0#8 6))
    s.seq.fsm = .read ∧ s.regs.rxLen = 0#16 ∧ s.params.wf = true ∧ Memory.wf s.mem = true ∧
      1 ≤ [0x03#8].length ∧ [0x03#8].length ≤ 4 ∧ [0x00#8, 0x40#8].length ≤ s.params.payMax ∧
      (0xFD#8 : Byte) ∉ 0xE0#8 :: 0x94#8 :: ([0x03#8] ++ [0x00#8, 0x40#8]) ∧
      (busyPins.rxErr = false ∧ busyPins.rxValid = true) ∧ s.env.rxQueue = c ++ [] ∧
      s.env.schedule = edges c.length busyPins ++ [] ∧ 2 ≤ 2 := by decide

/-- A state in the middle of a write that meets the invariants, and a step from it. -/
theorem witness_EveryStepKeepsTheInvariant :
    let s := withTurns [.edge busyPins] (running .write 0#8 2)
    Invariant s ∧ FrameCoherent s ∧ CandidateFramed s ∧ ∃ t, step s = .next t :=
  ⟨by constructor <;> decide,
    ⟨by decide, fun _ => ⟨[], by decide⟩, fun h => absurd h (by decide)⟩,
    ⟨fun h => absurd h (by decide), fun h => absurd h (by decide)⟩, steps_witness (by decide)⟩

/-- A read with a candidate in progress that meets the invariants, and a step from it. -/
theorem witness_EveryStepKeepsTheFraming :
    let s := withTurns [.edge busyPins] (withHeld [0xFD#8] (withCandidate [0xFE#8] (running .read 2#8 6)))
    Invariant s ∧ FrameCoherent s ∧ CandidateFramed s ∧ ∃ t, step s = .next t :=
  ⟨by constructor <;> decide,
    ⟨by decide, fun h => absurd h (by decide), fun _ => ⟨[], by decide⟩⟩,
    ⟨fun _ => by decide, fun h => absurd h (by decide)⟩, steps_witness (by decide)⟩

theorem witness_ResetTakesTheResetState :
    nextTurn (withTurns [.reset] (running .read 2#8 6)).env = (.reset, []) := by decide

/-- DROPPED set before; set by a CMD write, and by a write to an unmapped number. -/
theorem witness_DroppedRecordsABreach :
    let s := withTurns [.host (.write 0 1#66)] (running .read 0#8 6)
    let u := withTurns [.host (.write 0x3F 1#66)] (running .read 0#8 6)
    (dropWrite s).flags.dropped = true ∧
      (¬ resetTurn s ∧ (∃ t, step s = .next t) ∧ (nextOf (step s)).map (·.flags.dropped) = some true) ∧
      (¬ resetTurn u ∧ (∃ t, step u = .next t) ∧ (nextOf (step u)).map (·.flags.dropped) = some true) :=
  ⟨by decide, ⟨no_reset (by decide), steps_witness (by decide), by decide⟩, no_reset (by decide),
    steps_witness (by decide), by decide⟩

theorem witness_DutifulTurnsNeverStop :
    dutifulTurn (withTurns [.host (.write 0 0x0C#66)] State.reset) = false ∧
      dutifulTurn (withTurns [.host (.write 0x0C 5#66)] State.reset) = true ∧
      dutifulTurn (withTurns [.host (.read 7)] (running .read 0#8 6)) = true := by decide

/-- A classification that counts an attempt, and the acceptance of the frame's last byte. -/
theorem witness_AttemptsCountOnlySilence :
    let u := withTurns [.edge busyPins] (running .write 2#8 5)
    (¬ resetTurn (classifying 1#8 []) ∧ ∃ t, step (classifying 1#8 []) = .next t) ∧
      (¬ resetTurn u ∧ ∃ t, step u = .next t) :=
  ⟨⟨no_reset (by decide), steps_witness (by decide)⟩, no_reset (by decide), steps_witness (by decide)⟩

theorem witness_TxbufIsWrittenOnlyByBuild :
    let s := withTurns [.host (.write 0x2000 1#66)] session
    s.params.wf = true ∧ (∃ t, step s = .next t) ∧ ¬ resetTurn s ∧ ¬ commandTurn .fenc s ∧ ¬ commandTurn .xchg s :=
  ⟨by decide, steps_witness (by decide), no_reset (by decide), no_command (by decide), no_command (by decide)⟩

theorem witness_ReplyFieldsAreWrittenOnlyByFields :
    let s := withTurns [.host (.write 0x1E 1#66)] session
    (∃ t, step s = .next t) ∧ ¬ resetTurn s ∧ ¬ commandTurn .fdec s ∧ s.seq.fsm ≠ .classify :=
  ⟨steps_witness (by decide), no_reset (by decide), no_command (by decide), by decide⟩

end Sys2Proof.Tests
end

section
/-! SUPPORT. What an operation that is complete at the CMD write can do, said once for all eleven of them (R9): it fails
from the state it was accepted in, or it writes its results and completes. -/

namespace Sys2Proof.Machine

open Sys2Proof

variable {s u : State}

/-- Every failure kind has a code, and none above 8 (R240). -/
theorem FailureKind.code_bounds (k : FailureKind) : 1 ≤ k.code.toNat ∧ k.code.toNat ≤ 8 := by
  cases k <;> decide

/-- What writing results leaves alone or keeps, from `s` to `u`: every operation but XCHG writes registers and memory
only, and SINIT, while there is no Session, one with a budget of at least 1 (R22, R138). -/
structure WritesResults (s u : State) : Prop where
  params : u.params = s.params
  env : u.env = s.env
  seq : u.seq = s.seq
  points : u.points = s.points
  dropped : u.flags.dropped = s.flags.dropped
  mem : Memory.wf s.mem = true → Memory.wf u.mem = true
  session : (u.flags.svalid = s.flags.svalid ∧ u.session = s.session) ∨
    (s.flags.svalid = false ∧ u.flags.svalid = true ∧ 1 ≤ u.session.maxAtt.toNat)
  txLen : s.params.wf = true → s.regs.txLen.toNat ≤ s.params.txMax → u.regs.txLen.toNat ≤ s.params.txMax

/-- How an operation that is complete in one step ends, from the accepted state `s`: in one of the failures raised at a
CMD write, or in success (R250, R251). -/
inductive CompletesFrom (s : State) : State → Prop where
  | failure (k : FailureKind) (info : Byte) (hk : k.code.toNat ≤ 5) : CompletesFrom s (raiseFailure k info s)
  | success (u : State) (hu : WritesResults s u) : CompletesFrom s (completeOk u)

/-! ### The ways to write results -/

theorem writesResults_setRes8 (b : Byte) (s : State) : WritesResults s (setRes8 b s) :=
  ⟨rfl, rfl, rfl, rfl, rfl, id, .inl ⟨rfl, rfl⟩, fun _ h => h⟩

theorem writesResults_setResult (q r d : Int) (s : State) : WritesResults s (setResult q r d s) :=
  ⟨rfl, rfl, rfl, rfl, rfl, id, .inl ⟨rfl, rfl⟩, fun _ h => h⟩

theorem writesResults_setFields (c : List Byte) (s : State) : WritesResults s (setFields c s) where
  params := setFields_params s c
  env := setFields_env s c
  seq := setFields_seq s c
  points := setFields_points s c
  dropped := setFields_flags_dropped s c
  mem h := by rwa [setFields_mem]
  session := .inl ⟨setFields_flags_svalid s c, setFields_session s c⟩
  txLen _ h := by rwa [setFields_regs_txLen]

/-- Elements of the byte arrays written in order. -/
theorem writesResults_cells (ns : List Nat) (a : Nat) (vs : List Byte) (s : State) :
    WritesResults s (markWritten ns { s with mem := cellWriteSeq s.mem a vs }) :=
  ⟨rfl, rfl, rfl, rfl, rfl, fun h => cellsWf_cellWriteSeq h a vs, .inl ⟨rfl, rfl⟩, fun _ h => h⟩

/-- TXLEN after Build is the length of the frame built. -/
theorem build_txLen (dst src : Byte) (hp : s.params.wf = true) (h : lengthFault s = none) :
    (build dst src s).regs.txLen.toNat = (builtFrame dst src s).length := by
  have hb := builtFrame_bounds dst src hp h
  simp only [build_regs, BitVec.toNat_ofNat]
  omega

theorem writesResults_build (dst src : Byte) (h : lengthFault s = none) : WritesResults s (build dst src s) where
  params := rfl
  env := rfl
  seq := rfl
  points := rfl
  dropped := rfl
  mem hm := cellsWf_cellWriteSeq hm _ _
  session := .inl ⟨rfl, rfl⟩
  txLen hp _ := by
    rw [build_txLen dst src hp h]
    exact (builtFrame_bounds dst src hp h).2.1

/-! ### The operations -/

theorem opAddrvT_completes (s : State) : CompletesFrom s (opAddrvT s) := by
  unfold opAddrvT
  split
  · exact .failure _ _ (by decide)
  · exact .success _ (writesResults_setRes8 _ s)

theorem opAddrvN_completes (s : State) : CompletesFrom s (opAddrvN s) := by
  unfold opAddrvN
  split
  · exact .failure _ _ (by decide)
  · exact .success _ (writesResults_setRes8 _ s)

/-- SINIT stores a Session only where there is none and the budget is not 0 (R135, R138). -/
theorem opSinit_completes (s : State) : CompletesFrom s (opSinit s) := by
  unfold opSinit
  split
  · exact .failure _ _ (by decide)
  next hv =>
    split
    · split
      · exact .failure _ _ (by decide)
      next hatt =>
        have hbudget : 1 ≤ s.regs.attIn.toNat := by bv_omega
        exact .success _
          ⟨rfl, rfl, rfl, rfl, rfl, id, .inr ⟨by simpa using hv, rfl, hbudget⟩, fun _ h => h⟩
    · exact .failure _ _ (by decide)

theorem opBcdenc_completes (s : State) : CompletesFrom s (opBcdenc s) := by
  unfold opBcdenc
  dsimp only
  split
  · exact .failure _ _ (by decide)
  · split
    · exact .failure _ _ (by decide)
    · exact .success _ (writesResults_cells _ _ _ s)

theorem opBcddec_completes (s : State) : CompletesFrom s (opBcddec s) := by
  unfold opBcddec
  split
  · exact .failure _ _ (by decide)
  · exact .success _ (writesResults_setResult _ _ _ s)

theorem opInterp_completes (s : State) : CompletesFrom s (opInterp s) := by
  unfold opInterp
  split
  · exact .failure _ _ (by decide)
  · split
    · exact .failure _ _ (by decide)
    · split
      · exact .success _ (writesResults_setResult _ _ _ s)
      · exact .failure _ _ (by decide)

/-- A length out of bounds is InvalidOpcode or InvalidArgument (R182). -/
theorem lengthFault_code {k : FailureKind} {info : Byte} (h : lengthFault s = some (k, info)) : k.code.toNat ≤ 5 := by
  unfold lengthFault at h
  split at h
  · cases h; decide
  · split at h
    · cases h; decide
    · cases h

theorem opFenc_completes (s : State) : CompletesFrom s (opFenc s) := by
  unfold opFenc
  split
  next hf => exact .failure _ _ (lengthFault_code hf)
  next hf => exact .success _ (writesResults_build _ _ hf)

theorem opFdec_completes (s : State) : CompletesFrom s (opFdec s) := by
  unfold opFdec
  split
  · exact .failure _ _ (by decide)
  · split
    · exact .failure _ _ (by decide)
    · exact .success _ (writesResults_setFields _ s)

/-- Every operation but XCHG ends in the step that starts it (R9). -/
theorem commandOp_completes (i : Instr) (hc : i.space = .command) (hx : i ≠ .xchg) (s : State) :
    CompletesFrom s (commandOp i s) := by
  cases i with
  | addrvT => exact opAddrvT_completes s
  | addrvN => exact opAddrvN_completes s
  | sinit => exact opSinit_completes s
  | bcdenc => exact opBcdenc_completes s
  | bcddec => exact opBcddec_completes s
  | pair2i => exact .success _ (writesResults_setResult _ _ _ s)
  | interp => exact opInterp_completes s
  | rescale => exact .success _ (writesResults_setResult _ _ _ s)
  | prelut => exact .success _ (writesResults_setRes8 _ s)
  | fenc => exact opFenc_completes s
  | fdec => exact opFdec_completes s
  | xchg => exact absurd rfl hx
  | cPreMark | cTerm | cOk | cNg => cases hc

/-- Settles O12: an accepted operation other than XCHG ends in one of the two completions, and what completion leaves
in the flags is the claim. -/
theorem oneStepOperationsComplete : Obligations.OneStepOperationsComplete := by
  unfold Obligations.OneStepOperationsComplete
  intro i s hi hx hb
  have hc : i.space = .command := by simpa [Instr.wf] using hi
  refine ⟨commandOp i (acceptCommand s), ?_, ?_⟩
  · rw [exec_command i hc, onCommand_idle _ hb]
  · have h := commandOp_completes i hc hx (acceptCommand s)
    generalize commandOp i (acceptCommand s) = t at h
    cases h with
    | failure k info hk => exact ⟨rfl, rfl, rfl, rfl, rfl, rfl, rfl, nofun, fun _ => ⟨k.code_bounds.1, hk⟩⟩
    | success u hu =>
      exact ⟨rfl, rfl, rfl, by simp [hu.seq], hu.env, hu.params, hu.dropped, fun _ => ⟨rfl, rfl⟩, nofun⟩

end Sys2Proof.Machine
end

section
/-! SUPPORT. The invariant of every reachable state, in layers: what is stored between operations, what holds besides
while XCHG is at a step, and for each update of the machine the lemma that it keeps the invariant. -/

namespace Sys2Proof.Safety

open Sys2Proof Sys2Proof.Machine

variable {s t u : State}

/-- The part of the invariant that speaks neither of the completion flags nor of where the engine is. -/
structure StoredWf (s : State) : Prop where
  params : s.params.wf = true
  mem : Memory.wf s.mem = true
  points : PointTable.wf s.points = true
  budget : s.flags.svalid = true → 1 ≤ s.session.maxAtt.toNat
  attempts : s.flags.svalid = true → s.seq.attempts.toNat ≤ s.session.maxAtt.toNat
  noAttempts : s.flags.svalid = false → s.seq.attempts = 0#8
  txLen : s.regs.txLen.toNat ≤ s.params.txMax

/-- What holds besides at every step of XCHG, wherever it goes next: BUSY alone of the completion flags is set, there is
a Session, and TXBUF holds a whole frame (R80, R101, R201). -/
structure Exchanging (s : State) : Prop extends StoredWf s where
  busy : s.flags.busy = true
  done : s.flags.done = false
  err : s.flags.err = false
  errCode : s.flags.errCode = 0#4
  errInfo : s.flags.errInfo = 0#8
  svalid : s.flags.svalid = true
  frame : 6 ≤ s.regs.txLen.toNat

/-! ### The invariant and its layers -/

theorem Invariant.storedWf (h : Invariant s) : StoredWf s :=
  ⟨h.params, h.mem, h.points, h.budget, h.attempts, h.noAttempts, h.txLen⟩

theorem Invariant.fsm_idle (h : Invariant s) (hb : s.flags.busy = false) : s.seq.fsm = .idle := by
  by_contra hf
  simp [h.busy.mpr hf] at hb

theorem Invariant.exchanging (h : Invariant s) (hf : s.seq.fsm ≠ .idle) : Exchanging s := by
  have hb := h.busy.mpr hf
  obtain ⟨hdone, herr⟩ := h.running hb
  obtain ⟨hcode, hinfo⟩ := h.noError herr
  exact { h.storedWf with
    busy := hb, done := hdone, err := herr, errCode := hcode, errInfo := hinfo, svalid := h.session hb,
    frame := h.frame hf }

/-- At a step of XCHG the invariant is `Exchanging` with the bounds of that step. -/
theorem Exchanging.invariant (h : Exchanging s) (hf : s.seq.fsm ≠ .idle)
    (hw : s.seq.fsm = .write → s.seq.txIdx.toNat < s.regs.txLen.toNat)
    (hr : s.seq.fsm = .read ∨ s.seq.fsm = .classify →
      s.seq.attempts.toNat < s.session.maxAtt.toNat ∧ s.regs.rxLen.toNat ≤ s.params.rxMax) : Invariant s :=
  { h.toStoredWf with
    busy := by simp [h.busy, hf]
    running := fun _ => ⟨h.done, h.err⟩
    errDone := by simp [h.err]
    noError := fun _ => ⟨h.errCode, h.errInfo⟩
    code := by simp [h.err]
    session := fun _ => h.svalid
    guard := fun hrc => (hr hrc).1
    frame := fun _ => h.frame
    txIdx := hw
    rxLen := fun hrc => (hr hrc).2 }

/-- With no operation in progress the invariant is what is stored with the flags of a completion (R240, R250, R251). -/
theorem StoredWf.invariant_of_idle (h : StoredWf s) (hb : s.flags.busy = false) (hf : s.seq.fsm = .idle)
    (hdone : s.flags.err = true → s.flags.done = true)
    (hok : s.flags.err = false → s.flags.errCode = 0#4 ∧ s.flags.errInfo = 0#8)
    (hcode : s.flags.err = true → 1 ≤ s.flags.errCode.toNat ∧ s.flags.errCode.toNat ≤ 8) : Invariant s :=
  { h with
    busy := by simp [hb, hf]
    running := by simp [hb]
    errDone := hdone
    noError := hok
    code := hcode
    session := by simp [hb]
    guard := by simp [hf]
    frame := by simp [hf]
    txIdx := by simp [hf]
    rxLen := by simp [hf] }

/-- While no operation is in progress, whatever is stored well in place of the old contents keeps the invariant. -/
theorem Invariant.of_stored (h : Invariant s) (hb : s.flags.busy = false) (ht : StoredWf t)
    (hflags : t.flags = s.flags) (hseq : t.seq = s.seq) : Invariant t :=
  ht.invariant_of_idle (hflags ▸ hb) (hseq ▸ h.fsm_idle hb) (hflags ▸ h.errDone) (hflags ▸ h.noError)
    (hflags ▸ h.code)

/-! ### The shared updates -/

/-- Completion in failure (R250). -/
theorem StoredWf.invariant_raiseFailure (h : StoredWf s) (k : FailureKind) (info : Byte) :
    Invariant (raiseFailure k info s) :=
  invariant_of_idle { h with } rfl rfl (fun _ => rfl) nofun fun _ => k.code_bounds

/-- Completion in success (R251). -/
theorem StoredWf.invariant_completeOk (h : StoredWf s) : Invariant (completeOk s) :=
  invariant_of_idle { h with } rfl rfl nofun (fun _ => ⟨rfl, rfl⟩) nofun

/-- The invariant says nothing of the environment. -/
theorem Invariant.withEnv (h : Invariant s) (e : Env) : Invariant (s.withEnv e) := { h with }

/-- The invariant says nothing of DROPPED. -/
theorem Invariant.dropWrite (h : Invariant s) : Invariant (dropWrite s) := { h with }

theorem StoredWf.acceptCommand (h : StoredWf s) : StoredWf (acceptCommand s) := { h with }

/-- Reset keeps the parameters, and its state meets the invariant whatever they are (R20, R270). -/
theorem invariant_resetBlock (hp : s.params.wf = true) : Invariant (resetBlock s) :=
  StoredWf.invariant_of_idle ⟨hp, rfl, rfl, nofun, nofun, fun _ => rfl, Nat.zero_le _⟩ rfl rfl nofun
    (fun _ => ⟨rfl, rfl⟩) nofun

/-! ### The host -/

theorem Invariant.hostWrite (h : Invariant s) (n : Nat) (v : HostWord) : Invariant (hostWrite n v s) := by
  rcases hostWrite_cases n v s with ⟨-, he⟩ | ⟨-, he⟩ | ⟨hb, ⟨g, w, he, htx, -⟩ | ⟨w, he, -⟩ | ⟨w, he, -⟩⟩ <;> rw [he]
  · exact h
  · exact h.dropWrite
  · exact h.of_stored hb { h.storedWf with txLen := htx ▸ h.txLen } rfl rfl
  · exact h.of_stored hb { h.storedWf with mem := cellsWf_cellWrite h.mem _ _ } rfl rfl
  · exact h.of_stored hb { h.storedWf with points := cellsWf_cellWrite h.points _ _ } rfl rfl

/-- Written results are stored well: ATTEMPTS, 0 before there is a Session, is within any new budget (R25, R138). -/
theorem StoredWf.of_writesResults (h : StoredWf s) (hu : WritesResults s u) : StoredWf u where
  params := hu.params ▸ h.params
  mem := hu.mem h.mem
  points := hu.points ▸ h.points
  budget hv := by
    rcases hu.session with ⟨hsv, hse⟩ | ⟨-, -, hm⟩
    · rw [hse]; exact h.budget (hsv ▸ hv)
    · exact hm
  attempts hv := by
    rw [hu.seq]
    rcases hu.session with ⟨hsv, hse⟩ | ⟨hsv, -, -⟩
    · rw [hse]; exact h.attempts (hsv ▸ hv)
    · rw [h.noAttempts hsv]; exact Nat.zero_le _
  noAttempts hv := by
    rw [hu.seq]
    rcases hu.session with ⟨hsv, -⟩ | ⟨-, hsv, -⟩
    · exact h.noAttempts (hsv ▸ hv)
    · rw [hv] at hsv; cases hsv
  txLen := by rw [hu.params]; exact hu.txLen h.params h.txLen

theorem StoredWf.invariant_of_completesFrom (h : StoredWf s) (ht : CompletesFrom s t) : Invariant t := by
  cases ht with
  | failure k info _ => exact h.invariant_raiseFailure k info
  | success u hu => exact (h.of_writesResults hu).invariant_completeOk

/-- XCHG from the accepted state: a failed check completes, else the frame built is there to be written (R201 to
R203). -/
theorem Invariant.opXchg (h : Invariant s) : Invariant (opXchg (acceptCommand s)) := by
  have ha : StoredWf (Machine.acceptCommand s) := h.storedWf.acceptCommand
  unfold Machine.opXchg
  split
  next hv =>
    split
    · exact ha.invariant_raiseFailure _ _
    next hl =>
      have hlen := build_txLen s.session.xcvr s.session.ctrl ha.params hl
      have hmin := (builtFrame_bounds s.session.xcvr s.session.ctrl ha.params hl).1
      have hb := ha.of_writesResults (writesResults_build s.session.xcvr s.session.ctrl hl)
      refine Exchanging.invariant
        { hb with
          busy := rfl, done := rfl, err := rfl, errCode := rfl, errInfo := rfl, svalid := hv,
          frame := hlen ▸ hmin } nofun (fun _ => ?_) (by simp)
      exact Nat.lt_of_lt_of_le (by decide : 0 < 6) (hlen ▸ hmin)
  · exact ha.invariant_raiseFailure _ _

/-- A word written to CMD: while BUSY = 1 it is dropped, else the operation runs (R80, R81). -/
theorem Invariant.onCommand (h : Invariant s) {op : State → State} (hop : Invariant (op (acceptCommand s)))
    (ht : .next t = onCommand op s) : Invariant t := by
  cases hb : s.flags.busy with
  | false =>
    rw [onCommand_idle op hb] at ht
    exact Host.Outcome.next.inj ht ▸ hop
  | true =>
    rw [onCommand_busy op hb] at ht
    exact Host.Outcome.next.inj ht ▸ h.dropWrite

theorem Invariant.commandOp (h : Invariant s) {i : Instr} (hc : i.space = .command) :
    Invariant (commandOp i (acceptCommand s)) := by
  by_cases hx : i = .xchg
  · subst hx; exact h.opXchg
  · exact h.storedWf.acceptCommand.invariant_of_completesFrom (commandOp_completes i hc hx _)

/-! ### The engine -/

/-- The loop guard: a read starts only with budget left (R205). -/
theorem Exchanging.invariant_loopGuard (h : Exchanging s) : Invariant (loopGuard s) := by
  by_cases hlt : s.seq.attempts.toNat < s.session.maxAtt.toNat
  · rw [loopGuard_read hlt]
    exact Exchanging.invariant { h with } nofun nofun fun _ => ⟨hlt, Nat.zero_le _⟩
  · rw [loopGuard_timeout (Nat.le_of_not_lt hlt)]
    exact h.toStoredWf.invariant_raiseFailure _ _

/-- A byte handed over: the frame goes on, or the first read begins with ATTEMPTS = 0 (R70, R204). -/
theorem Invariant.txAccept (h : Invariant s) (hw : s.seq.fsm = .write) : Invariant (txAccept s) := by
  have hx : Exchanging s := h.exchanging (by simp [hw])
  by_cases hlt : s.seq.txIdx.toNat + 1 < s.regs.txLen.toNat
  · rw [txAccept_more hlt]
    refine Exchanging.invariant { hx with } (by simp [hw]) (fun _ => ?_) (by simp [hw])
    have := s.regs.txLen.isLt
    simp only [BitVec.toNat_add, BitVec.toNat_ofNat]
    omega
  · rw [txAccept_last (Nat.le_of_not_lt hlt)]
    exact Exchanging.invariant_loopGuard
      { hx with attempts := fun _ => Nat.zero_le _, noAttempts := fun _ => rfl }

/-- A byte taken: it has room in RXBUF, or the exchange ends (R73, R76). -/
theorem Invariant.takeByte (h : Invariant s) (hr : s.seq.fsm = .read) (b : Byte) : Invariant (takeByte b s) := by
  have hx : Exchanging s := h.exchanging (by simp [hr])
  by_cases hlt : s.regs.rxLen.toNat < s.params.rxMax
  · obtain ⟨w, he⟩ := takeByte_room (b := b) hlt
    have hb := params_bounds h.params
    have hlen : (s.regs.rxLen + 1#16).toNat ≤ s.params.rxMax := by
      simp only [BitVec.toNat_add, BitVec.toNat_ofNat]; omega
    rw [he]
    refine Exchanging.invariant { hx with mem := cellsWf_cellWrite hx.mem _ _ } ?_ ?_
      fun _ => ⟨h.guard (.inl hr), hlen⟩
    · dsimp only; split <;> simp [hr]
    · dsimp only; split <;> simp [hr]
  · rw [takeByte_full (Nat.le_of_not_lt hlt)]
    exact hx.toStoredWf.invariant_raiseFailure _ _

theorem Exchanging.setFields (h : Exchanging s) (c : List Byte) : Exchanging (setFields c s) :=
  { h.toStoredWf.of_writesResults (writesResults_setFields c s) with
    busy := by simp [h.busy]
    done := by simp [h.done]
    err := by simp [h.err]
    errCode := by simp [h.errCode]
    errInfo := by simp [h.errInfo]
    svalid := by simp [h.svalid]
    frame := by simpa using h.frame }

/-- An attempt counted while there was budget left is within the budget (R25, R205). -/
theorem Exchanging.countAttempt (h : Exchanging s) (hg : s.seq.attempts.toNat < s.session.maxAtt.toNat) :
    Exchanging { s with seq := { s.seq with attempts := s.seq.attempts + 1#8 } } := by
  have hle : (s.seq.attempts + 1#8).toNat ≤ s.session.maxAtt.toNat := by
    simp only [BitVec.toNat_add, BitVec.toNat_ofNat]; omega
  exact { h with attempts := fun _ => hle, noAttempts := fun hv => by simp [h.svalid] at hv }

/-- A classification completes the exchange or comes back to the loop guard (R207 to R217). -/
theorem Invariant.classify (h : Invariant s) (hf : s.seq.fsm = .classify) : Invariant (classify s) := by
  have hx : Exchanging s := h.exchanging (by simp [hf])
  have hfields : Exchanging (Machine.setFields (candidate s) s) := hx.setFields _
  unfold Machine.classify
  cases candidateClass s with
  | echo => exact hx.invariant_loopGuard
  | silence => exact (hx.countAttempt (h.guard (.inr hf))).invariant_loopGuard
  | noSource | foreign => exact hfields.invariant_loopGuard
  | negative => exact hfields.toStoredWf.invariant_raiseFailure _ _
  | valid => exact hfields.toStoredWf.invariant_completeOk

/-- Every transition of R221, where its event can be taken. -/
theorem Invariant.engineStep (h : Invariant s) {e : EngineEvent} (he : e.occursIn s) : Invariant (engineStep e s) := by
  cases e with
  | txAccept => exact h.txAccept he.1
  | txError => exact h.storedWf.invariant_raiseFailure _ _
  | rxByte b => exact h.takeByte he b
  | rxTimeout =>
    have hr : s.seq.fsm = .read := he
    have hx : Exchanging s := h.exchanging (by simp [hr])
    exact Exchanging.invariant { hx with } nofun nofun fun _ => ⟨h.guard (.inl hr), h.rxLen (.inl hr)⟩
  | rxError => exact h.storedWf.invariant_raiseFailure _ _
  | classification => exact h.classify he

/-! ### The step -/

/-- The cases of `step_cases`, each kept by its own lemma above. -/
theorem Invariant.step (h : Invariant s) (ht : step s = .next t) : Invariant t := by
  rcases step_cases ht with ⟨env', -, -, -, -, rfl⟩ | ⟨n, v, rest, -, -, -, rfl⟩ | ⟨rest, -, rfl⟩ |
    ⟨v, rest, -, ⟨i, -, hc, ho⟩ | ⟨r, -, ho⟩⟩ | ⟨p, e, env', -, he, -, -, -, rfl⟩
  · exact h.withEnv env'
  · exact (h.withEnv _).hostWrite n v
  · exact invariant_resetBlock h.params
  · have hs : Invariant (s.withSchedule rest) := h.withEnv _
    exact hs.onCommand (hs.commandOp hc) ho
  · have hs : Invariant (s.withSchedule rest) := h.withEnv _
    exact hs.onCommand (hs.storedWf.acceptCommand.invariant_raiseFailure _ _) ho
  · have hocc : e.occursIn s := edgeEvent_fsm he
    exact (h.withEnv env').engineStep (by cases e <;> exact hocc)

/-- Settles O51: `Invariant.step`, over the inversion of the step. -/
theorem everyStepKeepsTheInvariant : Obligations.EveryStepKeepsTheInvariant :=
  fun _ _ h ht => h.step ht

end Sys2Proof.Safety
end

section
/-! SUPPORT. The host's accesses through the register map: one rule for a write and one for a read while BUSY = 0, what
each kind of number stores and delivers, and the statements about them. -/

namespace Sys2Proof.Machine

open Sys2Proof Sys2Proof.Claims

variable {s : State}

/-! ### An access while BUSY = 0 -/

/-- A host write to a register other than CMD goes through to that register (R61, R62). -/
theorem step_store {n : Nat} {v : HostWord} {rest : List Turn} (hb : s.flags.busy = false)
    (h : nextTurn s.env = (.host (.write n v), rest)) (h0 : n ≠ 0) (hn : n < 0x4000) :
    step s = .next (storeReg n v (s.withSchedule rest)) := by
  rw [step_write h h0 hn]
  simp [hostWrite, hb]

/-- What a register delivers does not depend on the turns to come. -/
@[simp] theorem loadReg_withSchedule (n : Nat) (rest : List Turn) (s : State) :
    loadReg n (s.withSchedule rest) = loadReg n s := rfl

/-- A host read of a number that holds a value puts it on h_rdata (R62, R79). -/
theorem step_load {n : Nat} {d : HostWord} {rest : List Turn} (hb : s.flags.busy = false)
    (h : nextTurn s.env = (.host (.read n), rest)) (hn : n < 0x4000) (hd : loadReg n s = some d) :
    step s = .next { s with env := { s.env with schedule := rest, hRdata := d } } := by
  have hv : hostReadValue n (s.withSchedule rest) = some d := by
    simp [hostReadValue, hb, hd]
  rw [step_read h hn, hostRead, hv]
  rfl

/-! ### What a number stores -/

/-- Every row of R22's writable scalars stores as the map of R61 says. -/
theorem storeReg_scalar {n : Nat} {v : HostWord} {g : Regs} (h : (n, g) ∈ storedBy v s.regs) :
    storeReg n v s = markWritten [n] { s with regs := g } := by
  have hrows : (storedBy v s.regs).map (fun row => storeReg row.1 v s) =
      (storedBy v s.regs).map (fun row => markWritten [row.1] { s with regs := row.2 }) := rfl
  exact List.map_inj_left.mp hrows (n, g) h

/-- The writable scalars stand above CMD and below the arrays (R22). -/
theorem storedBy_bounds {n : Nat} {v : HostWord} {g g' : Regs} (h : (n, g') ∈ storedBy v g) : 0 < n ∧ n < 0x21 := by
  have hrows : ∀ row ∈ storedBy v g, 0 < row.1 ∧ row.1 < 0x21 := by
    simp [storedBy]
  exact hrows (n, g') h

/-- A write to a scalar operand register, as a step: the register, and nothing else (R22, R62). -/
theorem step_storeScalar {n : Nat} {v : HostWord} {g : Regs} {rest : List Turn} (hb : s.flags.busy = false)
    (hg : (n, g) ∈ storedBy v s.regs) (h : nextTurn s.env = (.host (.write n v), rest)) :
    ∃ w, step s = .next { s.withSchedule rest with regs := g, written := w } := by
  obtain ⟨hpos, hlt⟩ := storedBy_bounds hg
  have hstore : storeReg n v (s.withSchedule rest) = markWritten [n] { s.withSchedule rest with regs := g } :=
    storeReg_scalar hg
  exact ⟨_, by rw [step_store hb h (by omega) (by omega), hstore]; rfl⟩

/-- An element of a byte array or of RXBUF (R33, R64). -/
theorem storeReg_byte {n : Nat} (v : HostWord)
    (h : hostReg s.params n = .operandByte ∨ hostReg s.params n = .rxByte) :
    storeReg n v s = markWritten [n] { s with mem := cellWrite s.mem n (v.setWidth 8) } := by
  unfold storeReg
  rcases h with h | h <;> rw [h]

/-- A word of the breakpoint table (R34). -/
theorem storeReg_point {n : Nat} (v : HostWord) (h : hostReg s.params n = .point) :
    storeReg n v s = markWritten [n] { s with points := cellWrite s.points n (v.setWidth 32) } := by
  unfold storeReg
  rw [h]

/-- One element written is the only one that changes. -/
theorem sameOutside_cellWrite {w : Nat} (m : List (Nat × BitVec w)) (n : Nat) (v : BitVec w) :
    sameOutside n 1 m (cellWrite m n v) :=
  fun _ ha => cellRead_cellWrite_ne m v (by omega)

/-! ### What a number delivers -/

/-- Every scalar register delivers the value of its row (R22, R24 to R32, R62). -/
theorem loadReg_scalar {n : Nat} {d : HostWord} (h : (n, d) ∈ scalarValues s) : loadReg n s = some d := by
  have hrows : (scalarValues s).map (fun row => loadReg row.1 s) =
      (scalarValues s).map (fun row => some row.2) := by
    simp only [scalarValues, BitVec.signExtend_eq]
    rfl
  exact List.map_inj_left.mp hrows (n, d) h

theorem scalarValues_lt {n : Nat} {d : HostWord} (h : (n, d) ∈ scalarValues s) : n < 0x21 := by
  have hrows : ∀ row ∈ scalarValues s, row.1 < 0x21 := by
    simp [scalarValues]
  exact hrows (n, d) h

/-- What a row of the writable scalars stores, the same number delivers, extended as the row says (R62). -/
theorem loadReg_storedBy {n w : Nat} {signed : Bool} (h : (n, w, signed) ∈ writableScalars) (v : HostWord)
    (s : State) :
    ∃ g, (n, g) ∈ storedBy v s.regs ∧ loadReg n { s with regs := g } =
      some (if signed then (v.setWidth w).signExtend 66 else (v.setWidth w).setWidth 66) := by
  have hrows : writableScalars.map
        (fun row => ((storedBy v s.regs).lookup row.1).map fun g => loadReg row.1 { s with regs := g }) =
      writableScalars.map fun (_, w, signed) =>
        some (some (if signed then (v.setWidth w).signExtend 66 else (v.setWidth w).setWidth 66)) := rfl
  obtain ⟨g, hlookup, hdelivers⟩ := Option.map_eq_some_iff.mp (List.map_inj_left.mp hrows (n, w, signed) h)
  obtain ⟨before, behind, hrow, -⟩ := List.lookup_eq_some_iff.mp hlookup
  exact ⟨g, by simp [hrow], hdelivers⟩

theorem loadReg_operandByte {n : Nat} (h : hostReg s.params n = .operandByte) :
    loadReg n s = some ((cellRead s.mem n).setWidth 66) := by
  unfold loadReg
  rw [h]
  rfl

theorem loadReg_point {n : Nat} (h : hostReg s.params n = .point) :
    loadReg n s = some ((cellRead s.points n).signExtend 66) := by
  unfold loadReg
  rw [h]

/-- A byte of TXBUF below TXLEN (R63). -/
theorem loadReg_txByte {j : Nat} (h : hostReg s.params (0x2000 + j) = .txByte) (hj : j < s.regs.txLen.toNat) :
    loadReg (0x2000 + j) s = some ((cellRead s.mem (0x2000 + j)).setWidth 66) := by
  unfold loadReg
  rw [h]
  exact if_pos (by simpa [baseTxbuf] using hj)

/-- A byte of RXBUF below RXLEN (R64). -/
theorem loadReg_rxByte {j : Nat} (h : hostReg s.params (0x3000 + j) = .rxByte) (hj : j < s.regs.rxLen.toNat) :
    loadReg (0x3000 + j) s = some ((cellRead s.mem (0x3000 + j)).setWidth 66) := by
  unfold loadReg
  rw [h]
  exact if_pos (by simpa [baseRxbuf] using hj)

theorem loadReg_unmapped {n : Nat} (h : hostReg s.params n = .unmapped) : loadReg n s = some 0#66 := by
  unfold loadReg
  rw [h]

/-- The numbers outside every range of R61's table belong to no register. -/
theorem hostReg_of_unmapped {p : Config.Params} {n : Nat} (hp : p.wf = true) (h : isUnmapped p n) :
    hostReg p n = .unmapped := by
  have hb := params_bounds hp
  have ht : p.txMax = p.payMax + 264 := rfl
  rw [hostReg_window (by omega) (by rw [Ne, hostReg_operandByte]; omega), if_neg, if_neg, if_neg]
  · simp only [inArray_iff, baseRxbuf]; omega
  · simp only [inArray_iff, baseTxbuf]; omega
  · simp only [Bool.or_eq_true, inArray_iff, basePtRaw, basePtVal]; omega

/-! ### STATUS -/

/-- Appending is adding the upper part at its weight. -/
theorem toNat_append_eq_add {m n : Nat} (x : BitVec m) (y : BitVec n) :
    (x ++ y).toNat = 2 ^ n * x.toNat + y.toNat := by
  rw [BitVec.toNat_append, ← Nat.shiftLeft_add_eq_or_of_lt y.isLt, Nat.shiftLeft_eq, Nat.mul_comm]

theorem Fsm.code_toNat (f : Fsm) : f.code.toNat = fsmNumber f := by
  cases f <;> rfl

/-- STATUS as a number is the sum of its fields at their weights (R26). -/
theorem statusWord_toNat (s : State) :
    (statusWord s).toNat =
      s.flags.busy.toNat + 2 * s.flags.done.toNat + 4 * s.flags.err.toNat + 8 * s.flags.svalid.toNat +
        16 * s.flags.errCode.toNat + 256 * s.flags.dropped.toNat + 512 * s.flags.rplSrcOk.toNat +
        1024 * fsmNumber s.seq.fsm := by
  simp only [statusWord, toNat_append_eq_add, BitVec.toNat_ofBool, BitVec.toNat_ofNat, Fsm.code_toNat]
  omega

/-- STATUS is delivered whether the block is busy or not (R81). -/
theorem hostReadValue_status (s : State) : hostReadValue 1 s = some ((statusWord s).setWidth 66) := by
  have hreg : hostReg s.params 1 = .status := rfl
  simp [hostReadValue, loadReg, hreg, readableWhileBusy]

/-! ### The statements -/

/-- Settles O3: the fetch of a CMD write is the run of its command word, and that word is a command's. -/
theorem stepRunsTheDecodedCommand : Obligations.StepRunsTheDecodedCommand := by
  unfold Obligations.StepRunsTheDecodedCommand
  intro s v i rest h hd
  have hspace : i.space = .command := decodeCommand_space hd
  exact ⟨by simp [Instr.wf, hspace], by simp only [step_command h, hd]⟩

/-- Settles O8: a read of STATUS delivers the word, and the word is the sum of its fields. -/
theorem statusReadsItsFields : Obligations.StatusReadsItsFields := by
  unfold Obligations.StatusReadsItsFields
  intro s rest h
  refine ⟨_, step_read h (by decide), ?_⟩
  rw [hostRead, hostReadValue_status]
  have hlt : (statusWord s).toNat < 2 ^ 66 := Nat.lt_trans (statusWord s).isLt (by decide)
  change ((statusWord s).setWidth 66).toNat = _
  rw [BitVec.toNat_setWidth, Nat.mod_eq_of_lt hlt]
  exact statusWord_toNat s

/-- Settles O9: the write is `step_storeScalar`, and the read that follows delivers what `loadReg_storedBy` says. -/
theorem scalarRegistersReadBack : Obligations.ScalarRegistersReadBack := by
  unfold Obligations.ScalarRegistersReadBack
  refine ⟨fun s n v g rest hb hg h => step_storeScalar hb hg h, ?_⟩
  intro n w signed hrow s v rest hb hs
  obtain ⟨g, hg, hdelivers⟩ := loadReg_storedBy hrow v s
  have hlt : n < 0x21 := (storedBy_bounds hg).2
  obtain ⟨ws, hstore⟩ := step_storeScalar hb hg (nextTurn_schedule hs)
  have hload := step_load (s := { s.withSchedule (.host (.read n) :: rest) with regs := g, written := ws }) hb
    (nextTurn_schedule rfl) (by omega) hdelivers
  exact ⟨_, by rw [run_succ hstore, run_succ hload, run_zero], rfl⟩

/-- Settles O10: an element of an array, of RXBUF or of the breakpoint table stores through the laws of the cells. -/
theorem operandByteWritesAreExact : Obligations.OperandByteWritesAreExact := by
  unfold Obligations.OperandByteWritesAreExact
  constructor
  · intro s n v rest hp hm hb hn h
    have hbounds := params_bounds hp
    have hreg : hostReg s.params n = .operandByte ∨ hostReg s.params n = .rxByte :=
      hn.imp hostReg_operandByte.mpr (hostReg_of_rxByte hp)
    have hstep := step_store hb h (by omega) (by omega)
    rw [storeReg_byte (s := s.withSchedule rest) v hreg] at hstep
    exact ⟨_, _, hstep, cellRead_cellWrite_same hm _ _, sameOutside_cellWrite _ _ _⟩
  · intro s n v rest hp hm hb hn h
    have hbounds := params_bounds hp
    have hstep := step_store hb h (by omega) (by omega)
    rw [storeReg_point (s := s.withSchedule rest) v (hostReg_of_point hp hn)] at hstep
    exact ⟨_, _, hstep, cellRead_cellWrite_same hm _ _, sameOutside_cellWrite _ _ _⟩

/-- Settles O60: `step_load` over what each kind of number delivers. -/
theorem hostReadsDeliverTheirRegister : Obligations.HostReadsDeliverTheirRegister := by
  unfold Obligations.HostReadsDeliverTheirRegister
  intro s hp hb
  have hbounds := params_bounds hp
  have ht : s.params.txMax = s.params.payMax + 264 := rfl
  refine ⟨fun n d hd rest h => ?_, fun n hn rest h => ?_, fun n hn rest h => ?_, fun j hj hcap rest h => ?_,
    fun j hj hcap rest h => ?_, fun n hn rest h => ?_⟩
  · exact step_load hb h (Nat.lt_trans (scalarValues_lt hd) (by decide)) (loadReg_scalar hd)
  · exact step_load hb h (by omega) (loadReg_operandByte (hostReg_operandByte.mpr hn))
  · exact step_load hb h (by omega) (loadReg_point (hostReg_of_point hp hn))
  · exact step_load hb h (by omega) (loadReg_txByte (hostReg_of_txByte hp (by omega)) hj)
  · exact step_load hb h (by omega) (loadReg_rxByte (hostReg_of_rxByte hp (by omega)) hj)
  · exact step_load hb h (by omega) (loadReg_unmapped (hostReg_of_unmapped hp hn))

end Sys2Proof.Machine
end

section
/-! SUPPORT. What a step keeps of four small parts of the block: the Session, DROPPED, ATTEMPTS and the reply fields.
Each operation and each transition of the engine has its lemma, and `step_keeps` sorts the cases of a step by them. -/

namespace Sys2Proof.Machine

open Sys2Proof Sys2Proof.Claims

variable {s t : State}

/-! ### The Session and the reply fields, each as one value -/

/-- The Session registers with SVALID (R30, R31). -/
def sessionState (s : State) : Session × Bool := (s.session, s.flags.svalid)

/-- RPL_SRC_OK, RPL_DST, RPL_SRC and RPL_ST (R26, R187). -/
def replyFields (s : State) : Bool × Byte × Byte × Byte :=
  (s.flags.rplSrcOk, s.regs.rplDst, s.regs.rplSrc, s.regs.rplSt)

theorem sessionState_eq_iff : sessionState t = sessionState s ↔
    t.session = s.session ∧ t.flags.svalid = s.flags.svalid := by
  simp [sessionState]

theorem replyFields_eq_iff : replyFields t = replyFields s ↔
    t.flags.rplSrcOk = s.flags.rplSrcOk ∧ t.regs.rplDst = s.regs.rplDst ∧ t.regs.rplSrc = s.regs.rplSrc ∧
      t.regs.rplSt = s.regs.rplSt := by
  simp [replyFields]

@[simp] theorem sessionState_raiseFailure (k : FailureKind) (info : Byte) :
    sessionState (raiseFailure k info s) = sessionState s := rfl
@[simp] theorem sessionState_completeOk : sessionState (completeOk s) = sessionState s := rfl
@[simp] theorem sessionState_setFields (c : List Byte) : sessionState (setFields c s) = sessionState s := by
  simp [sessionState]

/-! ### The host's turns -/

/-- What every turn keeps that is no reset, no host write while BUSY = 1 and no transition of the engine. -/
structure HostTurnKeeps (s t : State) : Prop where
  dropped : t.flags.dropped = s.flags.dropped
  attempts : t.seq.attempts = s.seq.attempts
  session : s.flags.svalid = true → sessionState t = sessionState s

theorem hostTurnKeeps_withEnv (e : Env) : HostTurnKeeps s (s.withEnv e) := ⟨rfl, rfl, fun _ => rfl⟩

theorem hostTurnKeeps_raiseFailure (k : FailureKind) (info : Byte) : HostTurnKeeps s (raiseFailure k info s) :=
  ⟨rfl, rfl, fun _ => rfl⟩

/-- A host write that goes through changes operand registers or elements only, and no result (R22, R62). -/
theorem hostWrite_keeps (n : Nat) (v : HostWord) (hb : s.flags.busy = false) :
    HostTurnKeeps s (hostWrite n v s) ∧ replyFields (hostWrite n v s) = replyFields s := by
  rcases hostWrite_cases n v s with ⟨-, he⟩ | ⟨hbusy, -⟩ |
    ⟨-, ⟨g, w, he, -, -, -, -, -, hdst, hsrc, hst⟩ | ⟨w, he, -⟩ | ⟨w, he, -⟩⟩
  · rw [he]; exact ⟨⟨rfl, rfl, fun _ => rfl⟩, rfl⟩
  · simp [hb] at hbusy
  · rw [he]; exact ⟨⟨rfl, rfl, fun _ => rfl⟩, replyFields_eq_iff.mpr ⟨rfl, hdst, hsrc, hst⟩⟩
  · rw [he]; exact ⟨⟨rfl, rfl, fun _ => rfl⟩, rfl⟩
  · rw [he]; exact ⟨⟨rfl, rfl, fun _ => rfl⟩, rfl⟩

/-- Of the operations that are complete in one step only SINIT writes a Session, and only where there is none
(R137). -/
theorem CompletesFrom.keeps (h : CompletesFrom s t) : HostTurnKeeps s t := by
  cases h with
  | failure k info _ => exact hostTurnKeeps_raiseFailure k info
  | success u hu =>
    refine ⟨hu.dropped, by rw [completeOk_seq_attempts, hu.seq], fun hv => ?_⟩
    rcases hu.session with ⟨hsv, hse⟩ | ⟨hsv, -, -⟩
    · exact sessionState_eq_iff.mpr ⟨hse, hsv⟩
    · rw [hv] at hsv; cases hsv

/-- XCHG's transition out of IDLE: a check fails, or the frame is built and its write begins (R201 to R203). -/
theorem opXchg_cases (s : State) :
    (∃ k info, opXchg s = raiseFailure k info s) ∨
    opXchg s = { build s.session.xcvr s.session.ctrl s with seq := { s.seq with fsm := .write, txIdx := 0#16 } } := by
  unfold opXchg
  split
  · split
    · exact .inl ⟨_, _, rfl⟩
    · exact .inr rfl
  · exact .inl ⟨_, _, rfl⟩

theorem commandOp_keeps {i : Instr} (hc : i.space = .command) (s : State) : HostTurnKeeps s (commandOp i s) := by
  by_cases hx : i = .xchg
  · subst hx
    rcases opXchg_cases s with ⟨k, info, he⟩ | he
    · rw [commandOp, he]; exact hostTurnKeeps_raiseFailure k info
    · rw [commandOp, he]; exact ⟨rfl, rfl, fun _ => rfl⟩
  · exact (commandOp_completes i hc hx s).keeps

/-- No operation but FDEC writes the reply fields (R26, R187). -/
theorem replyFields_commandOp {i : Instr} (hi : i ≠ .fdec) (s : State) :
    replyFields (commandOp i s) = replyFields s := by
  cases i with
  | fdec => exact absurd rfl hi
  | addrvT => simp only [commandOp, opAddrvT]; split <;> rfl
  | addrvN => simp only [commandOp, opAddrvN]; split <;> rfl
  | sinit =>
    simp only [commandOp, opSinit]
    split
    · rfl
    · split
      · split <;> rfl
      · rfl
  | bcdenc =>
    simp only [commandOp, opBcdenc]
    split
    · rfl
    · split <;> rfl
  | bcddec => simp only [commandOp, opBcddec]; split <;> rfl
  | interp =>
    simp only [commandOp, opInterp]
    split
    · rfl
    · split
      · rfl
      · split <;> rfl
  | fenc => simp only [commandOp, opFenc]; split <;> rfl
  | xchg => rcases opXchg_cases s with ⟨k, info, he⟩ | he <;> rw [commandOp, he] <;> rfl
  | pair2i | rescale | prelut | cPreMark | cTerm | cOk | cNg => rfl

/-- A word written to CMD: dropped while BUSY = 1, else carried out from the accepted state (R80, R81). -/
theorem onCommand_cases {op : State → State} (h : .next t = onCommand op s) :
    (s.flags.busy = true ∧ t = dropWrite s) ∨ (s.flags.busy = false ∧ t = op (acceptCommand s)) := by
  cases hb : s.flags.busy with
  | true => rw [onCommand_busy op hb] at h; exact .inl ⟨rfl, Host.Outcome.next.inj h⟩
  | false => rw [onCommand_idle op hb] at h; exact .inr ⟨rfl, Host.Outcome.next.inj h⟩

/-! ### The engine -/

@[simp] theorem loopGuard_flags_dropped : (loopGuard s).flags.dropped = s.flags.dropped := by
  unfold loopGuard; split <;> rfl
@[simp] theorem loopGuard_seq_attempts : (loopGuard s).seq.attempts = s.seq.attempts := by
  unfold loopGuard; split <;> rfl
@[simp] theorem sessionState_loopGuard : sessionState (loopGuard s) = sessionState s := by
  unfold loopGuard; split <;> rfl
theorem replyFields_loopGuard : replyFields (loopGuard s) = replyFields s := by
  unfold loopGuard; split <;> rfl

theorem txAccept_keeps (s : State) :
    (txAccept s).flags.dropped = s.flags.dropped ∧ sessionState (txAccept s) = sessionState s ∧
      replyFields (txAccept s) = replyFields s := by
  by_cases hlt : s.seq.txIdx.toNat + 1 < s.regs.txLen.toNat
  · rw [txAccept_more hlt]; exact ⟨rfl, rfl, rfl⟩
  · rw [txAccept_last (Nat.le_of_not_lt hlt), loopGuard_flags_dropped, sessionState_loopGuard, replyFields_loopGuard]
    exact ⟨rfl, rfl, rfl⟩

theorem takeByte_keeps (b : Byte) (s : State) :
    (takeByte b s).flags.dropped = s.flags.dropped ∧ (takeByte b s).seq.attempts = s.seq.attempts ∧
      sessionState (takeByte b s) = sessionState s ∧ replyFields (takeByte b s) = replyFields s := by
  by_cases hlt : s.regs.rxLen.toNat < s.params.rxMax
  · obtain ⟨w, he⟩ := takeByte_room (b := b) hlt
    rw [he]; exact ⟨rfl, rfl, rfl, rfl⟩
  · rw [takeByte_full (Nat.le_of_not_lt hlt)]; exact ⟨rfl, rfl, rfl, rfl⟩

theorem classify_keeps (s : State) :
    (classify s).flags.dropped = s.flags.dropped ∧ sessionState (classify s) = sessionState s := by
  unfold classify
  cases candidateClass s with
  | silence => rw [loopGuard_flags_dropped, sessionState_loopGuard]; exact ⟨rfl, rfl⟩
  | echo | noSource | foreign | negative | valid => simp

/-- No transition of the engine changes DROPPED or the Session (R31, R289). -/
theorem engineStep_keeps (e : EngineEvent) (s : State) :
    (engineStep e s).flags.dropped = s.flags.dropped ∧ sessionState (engineStep e s) = sessionState s := by
  cases e with
  | txAccept => obtain ⟨hdropped, hsession, -⟩ := txAccept_keeps s; exact ⟨hdropped, hsession⟩
  | rxByte b => obtain ⟨hdropped, -, hsession, -⟩ := takeByte_keeps b s; exact ⟨hdropped, hsession⟩
  | classification => exact classify_keeps s
  | txError | rxTimeout | rxError => exact ⟨rfl, rfl⟩

/-- No transition of the engine but a classification writes the reply fields (R187). -/
theorem replyFields_engineStep {e : EngineEvent} (he : e ≠ .classification) (s : State) :
    replyFields (engineStep e s) = replyFields s := by
  cases e with
  | txAccept => obtain ⟨-, -, hreply⟩ := txAccept_keeps s; exact hreply
  | rxByte b => obtain ⟨-, -, -, hreply⟩ := takeByte_keeps b s; exact hreply
  | classification => exact absurd rfl he
  | txError | rxTimeout | rxError => rfl

/-- TxAccept is taken only while a byte is offered and the Transport is ready without TxError (R69, R77). -/
theorem edgeEvent_txAccept {p : TransportPins} (h : edgeEvent p s = some .txAccept) :
    s.seq.fsm = .write ∧ s.seq.txIdx.toNat < s.regs.txLen.toNat ∧ accepting p := by
  obtain ⟨hf, hlt⟩ : s.seq.fsm = .write ∧ s.seq.txIdx.toNat < s.regs.txLen.toNat := edgeEvent_fsm h
  rw [edgeEvent_write hf] at h
  refine ⟨hf, hlt, ?_⟩
  split at h
  · cases h
  next herr =>
    split at h
    next hready =>
      simp only [Bool.and_eq_true] at hready
      exact ⟨by simpa using herr, hready.1⟩
    · cases h

/-- ATTEMPTS becomes 0 with the last byte of the frame, and only then (R204). -/
theorem txAccept_attempts (s : State) :
    (txAccept s).seq.attempts = s.seq.attempts ∨
      (s.regs.txLen.toNat ≤ s.seq.txIdx.toNat + 1 ∧ (txAccept s).seq.attempts = 0#8) := by
  by_cases hlt : s.seq.txIdx.toNat + 1 < s.regs.txLen.toNat
  · rw [txAccept_more hlt]; exact .inl rfl
  · have hlast := Nat.le_of_not_lt hlt
    rw [txAccept_last hlast, loopGuard_seq_attempts]
    exact .inr ⟨hlast, rfl⟩

/-- A silent candidate has at most 2 bytes and is no echo (R222). -/
theorem candidateClass_silence (h : candidateClass s = .silence) :
    candidate s ≠ txFrame s ∧ s.regs.rxLen.toNat ≤ 2 := by
  rw [← candidate_length]
  unfold candidateClass classOf at h
  split at h
  · cases h
  next hecho =>
    split at h
    next hshort => exact ⟨hecho, hshort⟩
    · split at h
      · cases h
      · split at h
        · cases h
        · split at h <;> cases h

/-- Only a silent candidate is counted (R210 to R212). -/
theorem classify_attempts (s : State) :
    (classify s).seq.attempts = s.seq.attempts ∨
      (candidateClass s = .silence ∧ (classify s).seq.attempts = s.seq.attempts + 1#8) := by
  unfold classify
  cases candidateClass s with
  | silence => exact .inr ⟨rfl, by rw [loopGuard_seq_attempts]⟩
  | echo | noSource | foreign | negative | valid => simp

/-! ### The step -/

/-- The next turn is a host write, to whatever number. -/
def writeTurn (s : State) : Prop := ∃ n v, (nextTurn s.env).1 = .host (.write n v)

/-- THE CASES OF A STEP, sorted by what they keep.  Unless the turn is a reset, it is a host write while BUSY = 1, or it
keeps what `HostTurnKeeps` says and, if it is no FDEC, the reply fields, or it is a transition of the engine. -/
theorem step_keeps (h : step s = .next t) (hr : ¬ resetTurn s) :
    (s.flags.busy = true ∧ writeTurn s ∧ ∃ e, t = dropWrite (s.withEnv e)) ∨
    (¬ (s.flags.busy = true ∧ writeTurn s) ∧ HostTurnKeeps s t ∧
      (¬ commandTurn .fdec s → replyFields t = replyFields s)) ∨
    (∃ p e env', (nextTurn s.env).1 = .edge p ∧ edgeEvent p s = some e ∧ t = engineStep e (s.withEnv env')) := by
  rcases step_cases h with ⟨env', -, -, -, hw, rfl⟩ | ⟨n, v, rest, hn, -, -, rfl⟩ | ⟨rest, hn, -⟩ |
    ⟨v, rest, hn, ho⟩ | ⟨p, e, env', hp, he, -, -, -, ht⟩
  · exact .inr (.inl ⟨fun ⟨_, n, v, hn⟩ => hw n v hn, hostTurnKeeps_withEnv env', fun _ => rfl⟩)
  · have hwrite : writeTurn s := ⟨n, v, by rw [hn]⟩
    cases hb : s.flags.busy with
    | true => exact .inl ⟨rfl, hwrite, _, if_pos hb⟩
    | false =>
      obtain ⟨hkeeps, hreply⟩ := hostWrite_keeps (s := s.withSchedule rest) n v hb
      exact .inr (.inl ⟨by simp, { hkeeps with }, fun _ => hreply⟩)
  · exact absurd (congrArg Prod.fst hn) hr
  · have hwrite : writeTurn s := ⟨0, v, by rw [hn]⟩
    obtain ⟨op, ho, hkeeps, hreply⟩ : ∃ op, .next t = onCommand op (s.withSchedule rest) ∧
        HostTurnKeeps s (op (acceptCommand (s.withSchedule rest))) ∧
        (¬ commandTurn .fdec s → replyFields (op (acceptCommand (s.withSchedule rest))) = replyFields s) := by
      rcases ho with ⟨i, hd, hc, ho⟩ | ⟨r, -, ho⟩
      · refine ⟨_, ho, { commandOp_keeps hc _ with }, fun hfdec => replyFields_commandOp ?_ _⟩
        rintro rfl
        exact hfdec ⟨v, by rw [hn], hd⟩
      · exact ⟨_, ho, ⟨rfl, rfl, fun _ => rfl⟩, fun _ => rfl⟩
    rcases onCommand_cases ho with ⟨hb, rfl⟩ | ⟨hb, rfl⟩
    · exact .inl ⟨hb, hwrite, _, rfl⟩
    · exact .inr (.inl ⟨fun ⟨hbusy, _⟩ => by simp [hbusy] at hb, hkeeps, hreply⟩)
  · exact .inr (.inr ⟨p, e, env', hp, he, ht⟩)

/-! ### The statements -/

/-- Settles O19: no turn but a reset changes an existing Session, whoever takes it. -/
theorem theSessionIsImmutable : Obligations.TheSessionIsImmutable := by
  unfold Obligations.TheSessionIsImmutable
  intro s t hv hr h
  have hsession : sessionState t = sessionState s := by
    rcases step_keeps h hr with ⟨-, -, e, rfl⟩ | ⟨-, hkeeps, -⟩ | ⟨p, e, env', -, -, rfl⟩
    · rfl
    · exact hkeeps.session hv
    · exact (engineStep_keeps e _).2
  obtain ⟨hregs, hsvalid⟩ := sessionState_eq_iff.mp hsession
  exact ⟨hregs, hsvalid.trans hv⟩

/-- Settles O55: the dropped write sets DROPPED, and every other case of `step_keeps` keeps it and is no such write. -/
theorem droppedRecordsABreach : Obligations.DroppedRecordsABreach := by
  unfold Obligations.DroppedRecordsABreach
  intro s t h hr
  change _ ↔ _ ∨ (s.flags.busy = true ∧ writeTurn s)
  rcases step_keeps h hr with ⟨hb, hw, e, rfl⟩ | ⟨hno, hkeeps, -⟩ | ⟨p, e, env', hp, -, rfl⟩
  · simp [hb, hw]
  · simp [hno, hkeeps.dropped]
  · have hno : ¬ writeTurn s := by rintro ⟨n, v, hn⟩; simp [hn] at hp
    simp [hno, (engineStep_keeps e _).1]

/-- Settles O59: outside CLASSIFY the engine takes no classification, and of the host's turns only FDEC is left. -/
theorem replyFieldsAreWrittenOnlyByFields : Obligations.ReplyFieldsAreWrittenOnlyByFields := by
  unfold Obligations.ReplyFieldsAreWrittenOnlyByFields
  intro s t h hr hfdec hf
  rw [← replyFields_eq_iff]
  rcases step_keeps h hr with ⟨-, -, e, rfl⟩ | ⟨-, -, hreply⟩ | ⟨p, e, env', -, he, rfl⟩
  · rfl
  · exact hreply hfdec
  · refine replyFields_engineStep ?_ (s.withEnv env')
    rintro rfl
    exact hf (edgeEvent_fsm he)

/-- Settles O57: of the engine's transitions only the last TxAccept and a silent classification touch ATTEMPTS. -/
theorem attemptsCountOnlySilence : Obligations.AttemptsCountOnlySilence := by
  unfold Obligations.AttemptsCountOnlySilence
  intro s t h hr
  rcases step_keeps h hr with ⟨-, -, e, rfl⟩ | ⟨-, hkeeps, -⟩ | ⟨p, e, env', hp, he, rfl⟩
  · exact .inl rfl
  · exact .inl hkeeps.attempts
  · cases e with
    | txAccept =>
      obtain ⟨hf, hlt, haccepting⟩ := edgeEvent_txAccept he
      rcases txAccept_attempts (s.withEnv env') with hkept | ⟨hlast, hzero⟩
      · exact .inl hkept
      · exact .inr (.inl ⟨hf, Nat.le_antisymm hlt hlast, ⟨p, hp, haccepting⟩, hzero⟩)
    | rxByte b =>
      obtain ⟨-, hkept, -⟩ := takeByte_keeps b (s.withEnv env')
      exact .inl hkept
    | classification =>
      rcases classify_attempts (s.withEnv env') with hkept | ⟨hclass, hcount⟩
      · exact .inl hkept
      · obtain ⟨hecho, hshort⟩ := candidateClass_silence hclass
        exact .inr (.inr ⟨edgeEvent_fsm he, ⟨p, hp⟩, hshort, hecho, hcount⟩)
    | txError | rxTimeout | rxError => exact .inl rfl

end Sys2Proof.Machine
end

section
/-! SUPPORT. The host's accesses that store nothing: every one while BUSY = 1, every read, and a write while BUSY = 0 to
a number the host cannot write. -/

namespace Sys2Proof.Machine

open Sys2Proof Sys2Proof.Claims

variable {s : State}

/-- A host write while BUSY = 1, to CMD or to any other number, only sets DROPPED (R81). -/
theorem step_write_busy {n : Nat} {v : HostWord} {rest : List Turn} (hb : s.flags.busy = true) (hn : n < 0x4000)
    (h : nextTurn s.env = (.host (.write n v), rest)) : step s = .next (dropWrite (s.withSchedule rest)) := by
  have hb' : (s.withSchedule rest).flags.busy = true := hb
  by_cases h0 : n = 0
  · subst h0
    rw [step_command h]
    cases hd : decodeCommand (v.setWidth 8) with
    | ok i => exact (exec_command i (decodeCommand_space hd) _).trans (onCommand_busy _ hb')
    | error r => exact onCommand_busy _ hb'
  · rw [step_write h h0 hn]
    exact congrArg _ (if_pos hb')

/-- A host read, as a step: h_rdata takes the value delivered, and that value is the one specified where one is
(R79, R81). -/
theorem step_read_frame {n : Nat} {rest : List Turn} (h : nextTurn s.env = (.host (.read n), rest)) (hn : n < 0x4000) :
    ∃ d c, step s = .next { s with env := { s.env with schedule := rest, hRdata := d, freeCount := c } } ∧
      ∀ v, hostReadValue n s = some v → d = v := by
  have hval : hostReadValue n (s.withSchedule rest) = hostReadValue n s := rfl
  rw [step_read h hn, hostRead, hval]
  cases hv : hostReadValue n s with
  | some v => exact ⟨v, s.env.freeCount, rfl, fun _ he => Option.some.inj he⟩
  | none => exact ⟨_, _, rfl, nofun⟩

/-- A scalar register that may be read while BUSY = 1 delivers its current value, busy or not (R81). -/
theorem hostReadValue_readable {n : Nat} {d : HostWord} (hreg : readableWhileBusy (hostReg s.params n) = true)
    (hd : (n, d) ∈ scalarValues s) : hostReadValue n s = some d := by
  simp [hostReadValue, hreg, loadReg_scalar hd]

/-! ### Writes to what the host cannot write -/

/-- The registers of a number the host may only read (R22, R24 to R27, R30, R32, R63). -/
theorem hostReg_of_readOnly {p : Config.Params} {n : Nat} (hp : p.wf = true) (h : isReadOnly p n) :
    hostReg p n ∈ [.status, .errInfo, .sCtrl, .sXcvr, .sMaxatt, .tpBaud, .attempts, .res, .resRem, .resDen, .res8,
      .txLen, .rplDst, .rplSrc, .rplSt, .txByte] := by
  rcases Nat.lt_or_ge n 0x21 with hn | hn
  · have hscalar : (1 ≤ n ∧ n < 8) ∨ (0x13 ≤ n ∧ n < 0x17) ∨ n = 0x1C ∨ (0x1E ≤ n ∧ n < 0x21) := by omega
    rw [hostReg_scalar hn]
    clear h
    revert n
    decide
  · rw [hostReg_of_txByte hp (by omega)]
    decide

/-- A write to an unmapped number or to what the host may only read is ignored (R22, R61, R63). -/
theorem storeReg_ignored {n : Nat} (v : HostWord) (hp : s.params.wf = true)
    (h : isUnmapped s.params n ∨ isReadOnly s.params n) : storeReg n v s = s := by
  rcases h with h | h
  · simp only [storeReg, hostReg_of_unmapped hp h]
  · have hreg := hostReg_of_readOnly hp h
    unfold storeReg
    generalize hostReg s.params n = r at hreg
    revert hreg
    cases r <;> simp

/-! ### The statements -/

/-- Settles O6: a write is dropped, and a read delivers the four registers that are readable while BUSY = 1. -/
theorem accessesWhileBusy : Obligations.AccessesWhileBusy := by
  unfold Obligations.AccessesWhileBusy
  refine ⟨fun s n v rest hb hn h => step_write_busy hb hn h, fun s n rest _ hn h => ?_⟩
  obtain ⟨d, c, hstep, hd⟩ := step_read_frame h hn
  have hdelivers : ∀ v, readableWhileBusy (hostReg s.params n) = true → (n, v) ∈ scalarValues s → d = v :=
    fun v hreg hv => hd v (hostReadValue_readable hreg hv)
  refine ⟨d, c, hstep, ?_, ?_, ?_, ?_⟩
  all_goals
    rintro rfl
    exact hdelivers _ rfl (by simp [scalarValues])

/-- Settles O7: `step_read_frame`, whatever the value. -/
theorem hostReadsHaveNoSideEffect : Obligations.HostReadsHaveNoSideEffect := by
  unfold Obligations.HostReadsHaveNoSideEffect
  intro s n rest hn h
  obtain ⟨d, c, hstep, -⟩ := step_read_frame h hn
  exact ⟨d, c, hstep⟩

/-- Settles O11: the write goes through to its number, and the number ignores it. -/
theorem unwritableNumbersIgnoreWrites : Obligations.UnwritableNumbersIgnoreWrites := by
  unfold Obligations.UnwritableNumbersIgnoreWrites
  intro s n v rest hp hb h hn
  have hbounds := params_bounds hp
  have htx : s.params.txMax = s.params.payMax + 264 := rfl
  rw [step_store hb h (by omega) (by omega), storeReg_ignored (s := s.withSchedule rest) v hp hn]

end Sys2Proof.Machine
end

section
/-! SUPPORT. The engine's steps at WRITE and READ, one rule for each event as a whole next state, and the runs of them
that write a frame and receive a candidate. -/

namespace Sys2Proof.Machine

open Sys2Proof Sys2Proof.Claims

variable {s : State} {p : TransportPins} {rest : List Turn} {queue : List Byte} {b : Byte}

/-! ### The event an edge brings -/

/-- An edge whose event is no byte is that event's transition. -/
theorem step_event {e : EngineEvent} (h : nextTurn s.env = (.edge p, rest)) (he : edgeEvent p s = some e)
    (hb : ∀ b, e ≠ .rxByte b) : step s = .next (engineStep e (s.withSchedule rest)) := by
  rw [step_edge h, he]
  cases e with
  | rxByte b => exact absurd rfl (hb b)
  | txAccept | txError | rxTimeout | rxError | classification => rfl

/-- An edge that brings a byte takes it from the Transport's queue (R71, R73). -/
theorem step_byte (h : nextTurn s.env = (.edge p, rest)) (hf : s.seq.fsm = .read) (ho : offering p)
    (hq : s.env.rxQueue = b :: queue) :
    step s = .next (takeByte b ((s.withSchedule rest).withQueue queue)) := by
  rw [step_edge h, edgeEvent_byte hf ho.1 ho.2 hq, afterEvent, withSchedule_env_rxQueue, hq, List.tail_cons]

theorem edgeEvent_txError (hf : s.seq.fsm = .write) (he : p.txErr = true) : edgeEvent p s = some .txError := by
  rw [edgeEvent_write hf, if_pos he]

theorem edgeEvent_rxError (hf : s.seq.fsm = .read) (he : p.rxErr = true) : edgeEvent p s = some .rxError := by
  simp [edgeEvent, hf, he]

theorem edgeEvent_rxTimeout (hf : s.seq.fsm = .read) (ht : timingOut p) : edgeEvent p s = some .rxTimeout := by
  obtain ⟨herr, hvalid, htimeout⟩ := ht
  simp [edgeEvent, hf, herr, hvalid, htimeout]

/-- With a byte of the frame still to go, a Transport that is ready takes it (R69, R77). -/
theorem edgeEvent_accepting (hf : s.seq.fsm = .write) (hi : s.seq.txIdx.toNat < s.regs.txLen.toNat)
    (ha : accepting p) : edgeEvent p s = some .txAccept := by
  obtain ⟨herr, hready⟩ := ha
  simp [edgeEvent_write hf, herr, hready, txValid, hf, hi]

theorem edgeEvent_write_none (hf : s.seq.fsm = .write) (herr : p.txErr = false) (hready : p.txReady = false) :
    edgeEvent p s = none := by
  simp [edgeEvent_write hf, herr, hready]

/-- The turns of edges with the same pins come one after the other. -/
theorem nextTurn_edges {n : Nat} (hs : s.env.schedule = edges (n + 1) p ++ rest) :
    nextTurn s.env = (.edge p, edges n p ++ rest) :=
  nextTurn_schedule hs

/-! ### Writing the frame -/

/-- A byte of the frame handed over that is not the last (R70). -/
def handOverByte (rest : List Turn) (s : State) : State :=
  { s with
    seq := { s.seq with txIdx := s.seq.txIdx + 1#16 }
    env := { s.env with
      schedule := rest
      wireOut := s.env.wireOut ++ [cellRead s.mem (0x2000 + s.seq.txIdx.toNat)] } }

/-- The rest `bytes` of the frame handed over, and the first read begun, ATTEMPTS and RXLEN at 0 (R204). -/
def finishWrite (bytes : List Byte) (rest : List Turn) (s : State) : State :=
  { s with
    seq := { fsm := .read, txIdx := s.regs.txLen, attempts := 0#8 }
    regs := { s.regs with rxLen := 0#16 }
    env := { s.env with schedule := rest, wireOut := s.env.wireOut ++ bytes } }

theorem step_handOverByte (hf : s.seq.fsm = .write) (h : nextTurn s.env = (.edge p, rest)) (ha : accepting p)
    (hlt : s.seq.txIdx.toNat + 1 < s.regs.txLen.toNat) : step s = .next (handOverByte rest s) := by
  rw [step_event h (edgeEvent_accepting hf (by omega) ha) nofun, engineStep,
    txAccept_more (s := s.withSchedule rest) hlt]
  rfl

theorem step_finishWrite (hf : s.seq.fsm = .write) (h : nextTurn s.env = (.edge p, rest)) (ha : accepting p)
    (hlast : s.seq.txIdx.toNat + 1 = s.regs.txLen.toNat) (hbudget : 1 ≤ s.session.maxAtt.toNat) :
    step s = .next (finishWrite [cellRead s.mem (0x2000 + s.seq.txIdx.toNat)] rest s) := by
  rw [step_event h (edgeEvent_accepting hf (by omega) ha) nofun, engineStep,
    txAccept_last (s := s.withSchedule rest) hlast.ge, loopGuard_read]
  · rfl
  · exact hbudget

theorem txFrame_drop {i : Nat} (hi : i < s.regs.txLen.toNat) :
    (txFrame s).drop i = cellRead s.mem (0x2000 + i) :: (txFrame s).drop (i + 1) := by
  rw [List.drop_eq_getElem_cons (by rwa [txFrame_length])]
  simp [txFrame, baseTxbuf]

/-- One byte handed over and then the rest is the whole handed over. -/
theorem finishWrite_handOverByte (b : Byte) (bytes : List Byte) (rest rest' : List Turn) (s : State)
    (hb : cellRead s.mem (0x2000 + s.seq.txIdx.toNat) = b) :
    finishWrite bytes rest (handOverByte rest' s) = finishWrite (b :: bytes) rest s := by
  simp [finishWrite, handOverByte, hb]

/-- The bytes of the frame from tx_idx on, written by a Transport that accepts each: by induction on how many are left
before the last one (R70, R203, R204). -/
theorem run_write {n : Nat} (hf : s.seq.fsm = .write) (hn : s.seq.txIdx.toNat + (n + 1) = s.regs.txLen.toNat)
    (hbudget : 1 ≤ s.session.maxAtt.toNat) (ha : accepting p) (hs : s.env.schedule = edges (n + 1) p ++ rest) :
    Host.Core.run Sys2Proof.core (n + 1) s =
      .next (finishWrite ((txFrame s).drop s.seq.txIdx.toNat) rest s) := by
  rw [txFrame_drop (by omega)]
  induction n generalizing s with
  | zero =>
    have hend : (txFrame s).drop (s.seq.txIdx.toNat + 1) = [] :=
      List.drop_eq_nil_of_le (by rw [txFrame_length]; omega)
    rw [hend, run_succ (step_finishWrite hf (nextTurn_edges hs) ha hn hbudget)]
    rfl
  | succ n ih =>
    have hidx : (handOverByte (edges (n + 1) p ++ rest) s).seq.txIdx.toNat = s.seq.txIdx.toNat + 1 := by
      have := s.regs.txLen.isLt
      simp only [handOverByte, BitVec.toNat_add, BitVec.toNat_ofNat]; omega
    have hleft : (handOverByte (edges (n + 1) p ++ rest) s).seq.txIdx.toNat + (n + 1) = s.regs.txLen.toNat := by
      rw [hidx]; omega
    have hrun := ih (s := handOverByte (edges (n + 1) p ++ rest) s) hf hleft hbudget rfl
    rw [run_succ (step_handOverByte hf (nextTurn_edges hs) ha (by omega)), hrun, hidx,
      finishWrite_handOverByte _ _ _ _ s rfl, txFrame_drop (i := s.seq.txIdx.toNat + 1) (by omega)]
    rfl

/-! ### Receiving a candidate -/

/-- Adding 1 in a register's width is adding 1 to its number. -/
theorem add_one_eq_ofNat {w : Nat} (x : BitVec w) : x + 1#w = BitVec.ofNat w (x.toNat + 1) := by
  rw [BitVec.ofNat_add, BitVec.ofNat_toNat, BitVec.setWidth_eq]

/-- The bytes taken into RXBUF from RXLEN on, the read then being at `fsm` with `queue` left to the Transport (R73). -/
def receiveBytes (bytes : List Byte) (fsm : Fsm) (queue : List Byte) (rest : List Turn) (w : List Nat) (s : State) :
    State :=
  { s with
    mem := cellWriteSeq s.mem (0x3000 + s.regs.rxLen.toNat) bytes
    regs := { s.regs with rxLen := BitVec.ofNat 16 (s.regs.rxLen.toNat + bytes.length) }
    seq := { s.seq with fsm := fsm }
    env := { s.env with schedule := rest, rxQueue := queue }
    written := w }

/-- A byte that has room in RXBUF (R73). -/
theorem step_receiveByte (hf : s.seq.fsm = .read) (h : nextTurn s.env = (.edge p, rest)) (ho : offering p)
    (hq : s.env.rxQueue = b :: queue) (hlt : s.regs.rxLen.toNat < s.params.rxMax) :
    ∃ w, step s = .next (receiveBytes [b] (if b = 0xFD#8 then .classify else .read) queue rest w s) := by
  obtain ⟨w, he⟩ := takeByte_room (s := (s.withSchedule rest).withQueue queue) (b := b) hlt
  refine ⟨w, ?_⟩
  rw [step_byte h hf ho hq, he]
  simp only [withQueue_seq, withSchedule_seq, withQueue_regs, withSchedule_regs, hf, add_one_eq_ofNat]
  rfl

/-- Bytes taken after bytes taken are the bytes of both taken in order. -/
theorem receiveBytes_receiveBytes (b : Byte) (bytes : List Byte) (fsm fsm' : Fsm) (queue queue' : List Byte)
    (rest rest' : List Turn) (w w' : List Nat) (s : State) (hlen : s.regs.rxLen.toNat + 1 < 2 ^ 16) :
    receiveBytes bytes fsm queue rest w (receiveBytes [b] fsm' queue' rest' w' s) =
      receiveBytes (b :: bytes) fsm queue rest w s := by
  have hmod : (s.regs.rxLen.toNat + 1) % 65536 = s.regs.rxLen.toNat + 1 := Nat.mod_eq_of_lt hlen
  simp [receiveBytes, cellWriteSeq, hmod, Nat.add_assoc, Nat.add_comm 1 bytes.length]

/-- A candidate received: the bytes of `body`, none a C_TERM, go to RXBUF in order from RXLEN on, and the C_TERM behind
them ends the read; by induction on `body` (R72, R73). -/
theorem run_read {body : List Byte} (hf : s.seq.fsm = .read) (ho : offering p) (hbody : (0xFD#8 : Byte) ∉ body)
    (hroom : s.regs.rxLen.toNat + (body.length + 1) ≤ s.params.rxMax) (hmax : s.params.rxMax ≤ 4096)
    (hq : s.env.rxQueue = body ++ 0xFD#8 :: queue) (hs : s.env.schedule = edges (body.length + 1) p ++ rest) :
    ∃ w, Host.Core.run Sys2Proof.core (body.length + 1) s =
      .next (receiveBytes (body ++ [0xFD#8]) .classify queue rest w s) := by
  induction body generalizing s with
  | nil =>
    obtain ⟨w, hstep⟩ := step_receiveByte hf (nextTurn_edges hs) ho hq (by omega)
    exact ⟨w, (run_succ hstep).trans rfl⟩
  | cons b body ih =>
    obtain ⟨hb, hbody⟩ : b ≠ 0xFD#8 ∧ (0xFD#8 : Byte) ∉ body := by simpa [eq_comm] using hbody
    rw [List.length_cons] at hroom hs
    obtain ⟨w, hstep⟩ := step_receiveByte hf (nextTurn_edges hs) ho hq (by omega)
    rw [if_neg hb] at hstep
    have hlen : (s.regs.rxLen.toNat + 1) % 2 ^ 16 = s.regs.rxLen.toNat + 1 := Nat.mod_eq_of_lt (by omega)
    obtain ⟨w', hrun⟩ :=
      ih (s := receiveBytes [b] .read (body ++ 0xFD#8 :: queue) (edges (body.length + 1) p ++ rest) w s) rfl hbody
        (by simp only [receiveBytes, List.length_singleton, BitVec.toNat_ofNat, hlen]; omega) hmax rfl rfl
    rw [receiveBytes_receiveBytes _ _ _ _ _ _ _ _ _ _ s (by omega)] at hrun
    exact ⟨w', (run_succ hstep).trans hrun⟩

/-! ### The statements -/

/-- Settles O39: the order of the tests in WRITE and in READ. -/
theorem simultaneousEventsAreOrdered : Obligations.SimultaneousEventsAreOrdered := by
  unfold Obligations.SimultaneousEventsAreOrdered
  exact ⟨fun _ _ => edgeEvent_txError, fun _ _ => edgeEvent_rxError, fun _ _ _ _ => edgeEvent_byte⟩

/-- Settles O4: a wire constant met by a read is taken, as every byte is. -/
theorem stepRunsTheDecodedWireByte : Obligations.StepRunsTheDecodedWireByte := by
  unfold Obligations.StepRunsTheDecodedWireByte
  intro s p b i rest queue h ho hf hq hd
  obtain ⟨hspace, rfl⟩ := decodeWire_ok hd
  refine ⟨by simp [Instr.wf, hspace], ?_⟩
  rw [step_byte h hf ho hq, exec_wire i hspace, offerByte_read]
  exact hf

/-- Settles O34: the four rows of WRITE. -/
theorem writeStepsHandOverBytes : Obligations.WriteStepsHandOverBytes := by
  unfold Obligations.WriteStepsHandOverBytes
  intro s p rest hf h hi hbudget
  refine ⟨fun herr => ?_, fun herr hready => ?_, fun ha hmore => step_handOverByte hf h ha hmore,
    fun ha hlast => step_finishWrite hf h ha hlast hbudget⟩
  · rw [step_event h (edgeEvent_txError hf herr) nofun]; rfl
  · rw [step_edge h, edgeEvent_write_none hf herr hready]; rfl

/-- Settles O38: the other three ends of a read. -/
theorem readsEndOtherwise : Obligations.ReadsEndOtherwise := by
  unfold Obligations.ReadsEndOtherwise
  intro s p rest hf h
  refine ⟨fun ht => ?_, fun herr => ?_, fun b queue ho hq hfull => ?_⟩
  · rw [step_event h (edgeEvent_rxTimeout hf ht) nofun]; rfl
  · rw [step_event h (edgeEvent_rxError hf herr) nofun]; rfl
  · rw [step_byte h hf ho hq, takeByte_full (s := (s.withSchedule rest).withQueue queue) hfull.ge]; rfl

/-- Settles O35: `step_receiveByte`, and the laws of the cells for the one element it writes. -/
theorem receivedBytesAreAppended : Obligations.ReceivedBytesAreAppended := by
  unfold Obligations.ReceivedBytesAreAppended
  intro s p b rest queue hf h ho hq _ hm hlt
  obtain ⟨w, hstep⟩ := step_receiveByte hf h ho hq hlt
  exact ⟨_, w, hstep, cellRead_cellWrite_same hm _ b, sameOutside_cellWrite _ _ b⟩

/-- Settles O44: `run_write` from the first byte. -/
theorem theWholeFrameIsWrittenInOrder : Obligations.TheWholeFrameIsWrittenInOrder := by
  unfold Obligations.TheWholeFrameIsWrittenInOrder
  intro s p rest hf hidx hlen hbudget ha hs
  obtain ⟨n, hn⟩ : ∃ n, s.regs.txLen.toNat = n + 1 := ⟨_, (Nat.sub_add_cancel hlen).symm⟩
  have hzero : s.seq.txIdx.toNat = 0 := by rw [hidx]; rfl
  rw [hn] at hs ⊢
  rw [run_write hf (by omega) hbudget ha hs, hzero, List.drop_zero]
  rfl

/-- Settles O45: `run_read` from an empty buffer. -/
theorem aReadDeliversTheCandidate : Obligations.AReadDeliversTheCandidate := by
  unfold Obligations.AReadDeliversTheCandidate
  intro s p c queue rest hf hempty hp hm hc ho hq hs
  obtain ⟨body, rfl, hbody, hroom⟩ := hc
  have hzero : s.regs.rxLen.toNat = 0 := by rw [hempty]; rfl
  obtain ⟨-, -, hmax, -⟩ := params_bounds hp
  have hlen : (body ++ [0xFD#8]).length = body.length + 1 := List.length_append
  obtain ⟨w, hrun⟩ := run_read hf ho hbody (by omega) hmax (by simpa using hq) (hlen ▸ hs)
  refine ⟨cellWriteSeq s.mem 0x3000 (body ++ [0xFD#8]), w, ?_, cellReadSeq_cellWriteSeq hm _ _,
    fun a ha => cellRead_cellWriteSeq_outside _ _ ha⟩
  rw [hlen, hrun, receiveBytes, hzero, hlen, Nat.zero_add]

end Sys2Proof.Machine
end

section
/-! SUPPORT. What reaches TXBUF and what reaches the Transport's queue: each operation and each transition of the engine
has its lemma, and the cases of a step are sorted by them. -/

namespace Sys2Proof.Machine

open Sys2Proof Sys2Proof.Claims

variable {s t : State}

/-! ### A byte taken -/

/-- Everything a byte taken can change: elements of RXBUF, RXLEN, the flags and where the engine is, which is no WRITE
unless it was (R61, R73, R76). -/
theorem takeByte_frame (b : Byte) (s : State) :
    ∃ m n fsm flags w, takeByte b s =
      { s with
        mem := m
        regs := { s.regs with rxLen := n }
        seq := { s.seq with fsm := fsm }
        flags := flags
        written := w } ∧
      (∀ a < 0x3000, cellRead m a = cellRead s.mem a) ∧ (fsm = s.seq.fsm ∨ fsm = .classify ∨ fsm = .idle) := by
  by_cases hlt : s.regs.rxLen.toNat < s.params.rxMax
  · obtain ⟨w, he⟩ := takeByte_room (b := b) hlt
    refine ⟨_, _, _, _, _, he, fun a ha => cellRead_cellWrite_ne _ _ (by omega), ?_⟩
    split
    · exact .inr (.inl rfl)
    · exact .inl rfl
  · rw [takeByte_full (Nat.le_of_not_lt hlt)]
    exact ⟨_, s.regs.rxLen, _, _, _, rfl, fun _ _ => rfl, .inr (.inr rfl)⟩

/-! ### The Transport's queue -/

theorem hostWrite_env (n : Nat) (v : HostWord) (s : State) : (hostWrite n v s).env = s.env := by
  rcases hostWrite_cases n v s with ⟨-, he⟩ | ⟨-, he⟩ | ⟨-, ⟨g, w, he, -⟩ | ⟨w, he, -⟩ | ⟨w, he, -⟩⟩ <;> simp [he]

/-- No operation touches the environment (R9, R203). -/
theorem commandOp_env {i : Instr} (hc : i.space = .command) (s : State) : (commandOp i s).env = s.env := by
  by_cases hx : i = .xchg
  · subst hx
    rcases opXchg_cases s with ⟨k, info, he⟩ | he <;> rw [commandOp, he] <;> rfl
  · have h := commandOp_completes i hc hx s
    generalize commandOp i s = t at h
    cases h with
    | failure => rfl
    | success u hu => exact hu.env

@[simp] theorem loopGuard_env : (loopGuard s).env = s.env := by
  unfold loopGuard; split <;> rfl

theorem classify_env (s : State) : (classify s).env = s.env := by
  unfold classify
  cases candidateClass s with
  | silence => exact loopGuard_env
  | echo | noSource | foreign | negative | valid => simp

/-- A transition of the engine takes nothing from the queue: a byte taken has left it before (R71). -/
theorem engineStep_rxQueue (e : EngineEvent) (s : State) : (engineStep e s).env.rxQueue = s.env.rxQueue := by
  cases e with
  | txAccept =>
    rw [engineStep]
    by_cases hlt : s.seq.txIdx.toNat + 1 < s.regs.txLen.toNat
    · rw [txAccept_more hlt]
    · rw [txAccept_last (Nat.le_of_not_lt hlt), loopGuard_env]
  | rxByte b =>
    obtain ⟨m, n, fsm, flags, w, he, -⟩ := takeByte_frame b s
    rw [engineStep, he]
  | classification => rw [engineStep, classify_env]
  | txError | rxTimeout | rxError => rfl

/-- Settles O37: only a byte event takes from the queue, and only a read has one. -/
theorem bytesAreHeldOutsideARead : Obligations.BytesAreHeldOutsideARead := by
  unfold Obligations.BytesAreHeldOutsideARead
  refine ⟨fun s t hf h => ?_, fun s b rest h => step_arrive h, fun i s hi hf => ?_⟩
  · rcases step_cases h with ⟨env', -, -, hq, -, rfl⟩ | ⟨n, v, rest, -, -, -, rfl⟩ | ⟨rest, -, rfl⟩ |
      ⟨v, rest, -, ⟨i, -, hc, ho⟩ | ⟨r, -, ho⟩⟩ | ⟨p, e, env', -, he, -, -, hq, rfl⟩
    · exact hq
    · exact .inl (by rw [hostWrite_env]; rfl)
    · exact .inl rfl
    · rcases onCommand_cases ho with ⟨-, rfl⟩ | ⟨-, rfl⟩
      · exact .inl rfl
      · exact .inl (by rw [commandOp_env hc]; rfl)
    · rcases onCommand_cases ho with ⟨-, rfl⟩ | ⟨-, rfl⟩ <;> exact .inl rfl
    · rcases hq with hq | ⟨b, rfl, -⟩
      · exact .inl (by rw [engineStep_rxQueue]; exact hq)
      · exact absurd (edgeEvent_fsm he) hf
  · have hspace : i.space = .wire := by simpa [Instr.wf] using hi
    rw [exec_wire i hspace, offerByte_held hf]

/-! ### TXBUF and TXLEN -/

/-- TXLEN and every byte of the TXBUF window are in `t` what they are in `s` (R63). -/
def KeepsTxbuf (s t : State) : Prop :=
  t.regs.txLen = s.regs.txLen ∧ ∀ j < s.params.txMax, cellRead t.mem (0x2000 + j) = cellRead s.mem (0x2000 + j)

theorem keepsTxbuf_of_eq (hl : t.regs.txLen = s.regs.txLen) (hm : t.mem = s.mem) : KeepsTxbuf s t :=
  ⟨hl, fun _ _ => by rw [hm]⟩

theorem hostWrite_keepsTxbuf (n : Nat) (v : HostWord) (hp : s.params.wf = true) : KeepsTxbuf s (hostWrite n v s) := by
  rcases hostWrite_cases n v s with ⟨-, he⟩ | ⟨-, he⟩ | ⟨-, ⟨g, w, he, htx, -⟩ | ⟨w, he, hreg⟩ | ⟨w, he, -⟩⟩ <;> rw [he]
  · exact keepsTxbuf_of_eq rfl rfl
  · exact keepsTxbuf_of_eq rfl rfl
  · exact keepsTxbuf_of_eq htx rfl
  · have hn := hostReg_byte_outside_txbuf hp hreg
    exact ⟨rfl, fun j hj => cellRead_cellWrite_ne _ _ (by omega)⟩
  · exact keepsTxbuf_of_eq rfl rfl

/-- BCD lies below TXBUF (R61). -/
theorem opBcdenc_keepsTxbuf (s : State) : KeepsTxbuf s (opBcdenc s) := by
  unfold opBcdenc
  dsimp only
  split
  · exact keepsTxbuf_of_eq rfl rfl
  · split
    · exact keepsTxbuf_of_eq rfl rfl
    · have hlen : ∀ f, (bcdEncode f).length = 5 := fun f => by simp [bcdEncode]
      exact ⟨rfl, fun j _ => cellRead_cellWriteSeq_outside _ _ (.inr (by simp only [hlen, baseBcd]; omega))⟩

/-- Of the operations that are complete in one step only FENC writes TXBUF (R63). -/
theorem commandOp_keepsTxbuf {i : Instr} (hf : i ≠ .fenc) (hx : i ≠ .xchg) (s : State) :
    KeepsTxbuf s (commandOp i s) := by
  cases i with
  | fenc => exact absurd rfl hf
  | xchg => exact absurd rfl hx
  | bcdenc => exact opBcdenc_keepsTxbuf s
  | addrvT => simp only [commandOp, opAddrvT]; split <;> exact keepsTxbuf_of_eq rfl rfl
  | addrvN => simp only [commandOp, opAddrvN]; split <;> exact keepsTxbuf_of_eq rfl rfl
  | sinit =>
    simp only [commandOp, opSinit]
    split
    · exact keepsTxbuf_of_eq rfl rfl
    · split
      · split <;> exact keepsTxbuf_of_eq rfl rfl
      · exact keepsTxbuf_of_eq rfl rfl
  | bcddec => simp only [commandOp, opBcddec]; split <;> exact keepsTxbuf_of_eq rfl rfl
  | interp =>
    simp only [commandOp, opInterp]
    split
    · exact keepsTxbuf_of_eq rfl rfl
    · split
      · exact keepsTxbuf_of_eq rfl rfl
      · split <;> exact keepsTxbuf_of_eq rfl rfl
  | fdec =>
    simp only [commandOp, opFdec]
    split
    · exact keepsTxbuf_of_eq rfl rfl
    · split
      · exact keepsTxbuf_of_eq rfl rfl
      · exact keepsTxbuf_of_eq (setFields_regs_txLen s _) (setFields_mem s _)
  | pair2i | rescale | prelut | cPreMark | cTerm | cOk | cNg => exact keepsTxbuf_of_eq rfl rfl

@[simp] theorem loopGuard_mem : (loopGuard s).mem = s.mem := by
  unfold loopGuard; split <;> rfl
@[simp] theorem loopGuard_regs_txLen : (loopGuard s).regs.txLen = s.regs.txLen := by
  unfold loopGuard; split <;> rfl

/-- No transition of the engine writes TXBUF: a byte taken goes to RXBUF, behind it (R61, R63). -/
theorem engineStep_keepsTxbuf (e : EngineEvent) (hp : s.params.wf = true) : KeepsTxbuf s (engineStep e s) := by
  cases e with
  | txAccept =>
    rw [engineStep]
    by_cases hlt : s.seq.txIdx.toNat + 1 < s.regs.txLen.toNat
    · rw [txAccept_more hlt]; exact keepsTxbuf_of_eq rfl rfl
    · rw [txAccept_last (Nat.le_of_not_lt hlt)]
      exact keepsTxbuf_of_eq loopGuard_regs_txLen loopGuard_mem
  | rxByte b =>
    have hbounds := params_bounds hp
    have htx : s.params.txMax = s.params.payMax + 264 := rfl
    obtain ⟨m, n, fsm, flags, w, he, hbelow, -⟩ := takeByte_frame b s
    rw [engineStep, he]
    exact ⟨rfl, fun j hj => hbelow _ (by omega)⟩
  | classification =>
    rw [engineStep]
    unfold classify
    cases candidateClass s with
    | silence => exact keepsTxbuf_of_eq loopGuard_regs_txLen loopGuard_mem
    | echo | noSource | foreign | negative | valid => exact keepsTxbuf_of_eq (by simp) (by simp)
  | txError | rxTimeout | rxError => exact keepsTxbuf_of_eq rfl rfl

/-- Settles O58: FENC, XCHG and reset set apart, every case of a step keeps TXBUF. -/
theorem txbufIsWrittenOnlyByBuild : Obligations.TxbufIsWrittenOnlyByBuild := by
  unfold Obligations.TxbufIsWrittenOnlyByBuild
  intro s t hp h hr hfenc hxchg
  change KeepsTxbuf s t
  rcases step_cases h with ⟨env', -, -, -, -, rfl⟩ | ⟨n, v, rest, -, -, -, rfl⟩ | ⟨rest, hn, -⟩ |
    ⟨v, rest, hn, ⟨i, hd, -, ho⟩ | ⟨r, -, ho⟩⟩ | ⟨p, e, env', -, -, -, -, -, rfl⟩
  · exact keepsTxbuf_of_eq rfl rfl
  · exact hostWrite_keepsTxbuf (s := s.withSchedule rest) n v hp
  · exact absurd (congrArg Prod.fst hn) hr
  · have hcommand : commandTurn i s := ⟨v, by rw [hn], hd⟩
    rcases onCommand_cases ho with ⟨-, rfl⟩ | ⟨-, rfl⟩
    · exact keepsTxbuf_of_eq rfl rfl
    · exact commandOp_keepsTxbuf (by rintro rfl; exact hfenc hcommand) (by rintro rfl; exact hxchg hcommand)
        (acceptCommand (s.withSchedule rest))
  · rcases onCommand_cases ho with ⟨-, rfl⟩ | ⟨-, rfl⟩ <;> exact keepsTxbuf_of_eq rfl rfl
  · exact engineStep_keepsTxbuf (s := s.withEnv env') e hp

end Sys2Proof.Machine
end

section
/-! SUPPORT. The two invariants of a running exchange: what a step can be to an exchange, said once, then the frame in
TXBUF with the record of what has been sent, and the place of C_TERM in the candidate. -/

namespace Sys2Proof.Safety

open Sys2Proof Sys2Proof.Machine

variable {s t u : State}

/-! ### What a step is to an exchange -/

/-- XCHG's start, its checks passed: the frame built, its write to begin (R202, R203). -/
def startWrite (s : State) : State :=
  { build s.session.xcvr s.session.ctrl s with seq := { s.seq with fsm := .write, txIdx := 0#16 } }

/-- XCHG out of IDLE: back in IDLE with a check failed, or at the start of the write (R201 to R203). -/
theorem opXchg_idle_or_starts (s : State) :
    (opXchg s).seq.fsm = .idle ∨ (lengthFault s = none ∧ opXchg s = startWrite s) := by
  unfold opXchg
  split
  · split
    · exact .inl rfl
    next hl => exact .inr ⟨hl, rfl⟩
  · exact .inl rfl

/-- What a step from `s` is to an exchange: none is in progress after it; the turn reached neither sequencing,
registers nor memory; XCHG started its write; or the engine made a transition. -/
inductive ExchangeStep (s : State) : State → Prop where
  | idle (t : State) (hf : t.seq.fsm = .idle) : ExchangeStep s t
  | kept (e : Env) (f : Flags) (hw : e.wireOut = s.env.wireOut) : ExchangeStep s { s with env := e, flags := f }
  | started (u : State) (hu : StoredWf u) (hl : lengthFault u = none) : ExchangeStep s (startWrite u)
  | engine (e : EngineEvent) (env' : Env) (he : e.occursIn s) (hw : env'.wireOut = s.env.wireOut) :
      ExchangeStep s (engineStep e (s.withEnv env'))

/-- An operation that is complete in one step leaves the engine in IDLE (R250, R251). -/
theorem completesFrom_fsm_idle (h : CompletesFrom s t) : t.seq.fsm = .idle := by
  cases h <;> rfl

/-- A word written to CMD while no operation is in progress: only XCHG leaves IDLE (R9, R203). -/
theorem exchangeStep_commandOp {i : Instr} (hc : i.space = .command) (hu : StoredWf u) :
    ExchangeStep s (commandOp i u) := by
  by_cases hx : i = .xchg
  · subst hx
    rcases opXchg_idle_or_starts u with hf | ⟨hl, he⟩
    · exact .idle _ hf
    · rw [commandOp, he]; exact .started u hu hl
  · exact .idle _ (completesFrom_fsm_idle (commandOp_completes i hc hx u))

/-- A host write to a register is refused while an exchange is in progress, and starts none (R81). -/
theorem exchangeStep_hostWrite (h : Invariant s) (n : Nat) (v : HostWord) (rest : List Turn) :
    ExchangeStep s (hostWrite n v (s.withSchedule rest)) := by
  cases hb : s.flags.busy with
  | true =>
    rw [show hostWrite n v (s.withSchedule rest) = dropWrite (s.withSchedule rest) from if_pos hb]
    exact .kept _ _ rfl
  | false =>
    refine .idle _ ?_
    rcases hostWrite_cases n v (s.withSchedule rest) with ⟨-, he⟩ | ⟨hbusy, -⟩ |
      ⟨-, ⟨g, w, he, -⟩ | ⟨w, he, -⟩ | ⟨w, he, -⟩⟩
    · rw [he]; exact h.fsm_idle hb
    · simp [hb] at hbusy
    all_goals rw [he]; exact h.fsm_idle hb

/-- A word written to CMD (R80, R81). -/
theorem exchangeStep_onCommand {op : State → State} {rest : List Turn}
    (hop : ExchangeStep s (op (acceptCommand (s.withSchedule rest))))
    (ho : .next t = onCommand op (s.withSchedule rest)) : ExchangeStep s t := by
  rcases onCommand_cases ho with ⟨-, rfl⟩ | ⟨-, rfl⟩
  · exact .kept _ _ rfl
  · exact hop

/-- The cases of `step_cases`, as an exchange sees them. -/
theorem Invariant.exchangeStep (h : Invariant s) (ht : Machine.step s = .next t) : ExchangeStep s t := by
  rcases step_cases ht with ⟨env', hw, -, -, -, rfl⟩ | ⟨n, v, rest, -, -, -, rfl⟩ | ⟨rest, -, rfl⟩ |
    ⟨v, rest, -, ⟨i, -, hc, ho⟩ | ⟨r, -, ho⟩⟩ | ⟨p, e, env', -, he, hw, -, -, rfl⟩
  · exact .kept env' s.flags hw
  · exact exchangeStep_hostWrite h n v rest
  · exact .idle _ rfl
  · have hu : StoredWf (acceptCommand (s.withSchedule rest)) := (h.withEnv _).storedWf.acceptCommand
    exact exchangeStep_onCommand (exchangeStep_commandOp hc hu) ho
  · exact exchangeStep_onCommand (.idle _ rfl) ho
  · exact .engine e env' (edgeEvent_fsm he) hw

/-- The loop guard starts a read or ends the exchange (R205). -/
theorem loopGuard_fsm (s : State) : (loopGuard s).seq.fsm = .read ∨ (loopGuard s).seq.fsm = .idle := by
  unfold loopGuard
  split
  · exact .inl rfl
  · exact .inr rfl

/-! ### The frame and what has been sent of it -/

/-- TXBUF holds the frame of the Session and the operand registers, and the Transport has accepted all of it: what every
read of the exchange keeps (R82, R84). -/
def FrameSent (s : State) : Prop :=
  txFrame s = builtFrame s.session.xcvr s.session.ctrl s ∧ ∃ before, s.env.wireOut = before ++ txFrame s

theorem frameCoherent_of_idle (hf : s.seq.fsm = .idle) : FrameCoherent s := by
  simp [FrameCoherent, hf]

/-- Once the write is over, a frame sent whole is what `FrameCoherent` asks. -/
theorem FrameSent.coherent (h : FrameSent s) (hf : s.seq.fsm ≠ .write) : FrameCoherent s :=
  ⟨fun _ => h.1, fun hw => absurd hw hf, fun _ => h.2⟩

theorem FrameCoherent.frameSent (h : FrameCoherent s) (hf : s.seq.fsm = .read ∨ s.seq.fsm = .classify) :
    FrameSent s := by
  obtain ⟨hbuilt, -, hsent⟩ := h
  exact ⟨hbuilt (by rcases hf with hf | hf <;> simp [hf]), hsent hf⟩

theorem FrameSent.setFields (h : FrameSent s) (c : List Byte) : FrameSent (setFields c s) := by
  unfold Machine.setFields
  split <;> exact h

/-- Neither a new read nor the end of the exchange touches the frame. -/
theorem FrameSent.coherent_loopGuard (h : FrameSent s) : FrameCoherent (loopGuard s) := by
  have hsent : FrameSent (loopGuard s) := by
    unfold loopGuard
    split <;> exact h
  exact hsent.coherent (by rcases loopGuard_fsm s with hf | hf <;> simp [hf])

/-- While a frame is being written the byte offered is the frame's at tx_idx (R69, R70). -/
theorem txData_eq_txFrame_getElem (hi : s.seq.txIdx.toNat < (txFrame s).length) :
    txData s = (txFrame s)[s.seq.txIdx.toNat] := by
  simp [txData, txFrame, State.byteAt]

/-- The byte handed over is the next of the frame, and after the last one all of it is sent (R70, R203). -/
theorem FrameCoherent.txAccept (h : FrameCoherent s) (hw : s.seq.fsm = .write)
    (hi : s.seq.txIdx.toNat < s.regs.txLen.toNat) : FrameCoherent (txAccept s) := by
  obtain ⟨hbuilt, hwritten, -⟩ := h
  have hframe := hbuilt (by simp [hw])
  obtain ⟨before, hout⟩ := hwritten hw
  have hi' : s.seq.txIdx.toNat < (txFrame s).length := by rwa [txFrame_length]
  have hsent : s.env.wireOut ++ [txData s] = before ++ (txFrame s).take (s.seq.txIdx.toNat + 1) := by
    rw [hout, txData_eq_txFrame_getElem hi', List.append_assoc, List.take_append_getElem]
  by_cases hlt : s.seq.txIdx.toNat + 1 < s.regs.txLen.toNat
  · rw [txAccept_more hlt]
    have hidx : (s.seq.txIdx + 1#16).toNat = s.seq.txIdx.toNat + 1 := by
      have := s.regs.txLen.isLt
      simp only [BitVec.toNat_add, BitVec.toNat_ofNat]; omega
    exact ⟨fun _ => hframe, fun _ => ⟨before, hidx ▸ hsent⟩, by simp [hw]⟩
  · rw [txAccept_last (Nat.le_of_not_lt hlt)]
    have hall : (txFrame s).take (s.seq.txIdx.toNat + 1) = txFrame s :=
      List.take_of_length_le (by rw [txFrame_length]; omega)
    exact FrameSent.coherent_loopGuard ⟨hframe, before, hall ▸ hsent⟩

/-- RXBUF lies behind TXBUF and behind every operand the frame is built from, so a byte taken changes neither; that the
payload operand ends below RXBUF is the frame's own length (R61, R183). -/
theorem FrameSent.coherent_takeByte (h : FrameSent s) (hp : s.params.wf = true)
    (htxLen : s.regs.txLen.toNat ≤ s.params.txMax) (hr : s.seq.fsm = .read) (b : Byte) :
    FrameCoherent (takeByte b s) := by
  obtain ⟨hframe, before, hout⟩ := h
  have hbounds := params_bounds hp
  have htxMax : s.params.txMax = s.params.payMax + 264 := rfl
  have hpay : s.regs.txLen.toNat = s.regs.preCnt.toNat + s.regs.opcLen.toNat + s.regs.payLen.toNat + 5 := by
    rw [← txFrame_length, hframe, builtFrame_length]
  obtain ⟨m, n, fsm, flags, w, he, hbelow, hfsm⟩ := takeByte_frame b s
  have htxFrame : txFrame (takeByte b s) = txFrame s := by
    rw [he]
    exact cellReadSeq_congr fun i hi => hbelow _ (by simp only [baseTxbuf] at *; omega)
  have hbuilt : builtFrame s.session.xcvr s.session.ctrl (takeByte b s) =
      builtFrame s.session.xcvr s.session.ctrl s := by
    rw [he]
    exact builtFrame_congr _ _ rfl rfl rfl fun a ha => hbelow a (by omega)
  have hsent : FrameSent (takeByte b s) := by
    rw [FrameSent, htxFrame, show (takeByte b s).session = s.session by rw [he], hbuilt,
      show (takeByte b s).env = s.env by rw [he]]
    exact ⟨hframe, before, hout⟩
  refine hsent.coherent ?_
  rw [he]
  rcases hfsm with rfl | rfl | rfl <;> simp [hr]

/-- Whatever the class, a classification leaves the frame as it is (R207 to R217). -/
theorem FrameSent.coherent_classify (h : FrameSent s) : FrameCoherent (classify s) := by
  unfold classify
  cases candidateClass s with
  | echo => exact h.coherent_loopGuard
  | silence =>
    exact FrameSent.coherent_loopGuard (s := { s with seq := { s.seq with attempts := s.seq.attempts + 1#8 } }) h
  | noSource | foreign => exact (h.setFields _).coherent_loopGuard
  | negative | valid => exact frameCoherent_of_idle rfl

theorem FrameCoherent.engineStep (h : FrameCoherent s) (hinv : Invariant s) {e : EngineEvent} (he : e.occursIn s) :
    FrameCoherent (engineStep e s) := by
  cases e with
  | txAccept => exact h.txAccept he.1 he.2
  | rxByte b => exact (h.frameSent (.inl he)).coherent_takeByte hinv.params hinv.txLen he b
  | rxTimeout =>
    have hsent : FrameSent s := h.frameSent (.inl he)
    exact FrameSent.coherent (s := Machine.engineStep .rxTimeout s) hsent nofun
  | classification => exact (h.frameSent (.inr he)).coherent_classify
  | txError | rxError => exact frameCoherent_of_idle rfl

/-- Build writes the frame over none of its own operands, and nothing of it has been sent (R183, R203). -/
theorem frameCoherent_startWrite (hu : StoredWf u) (hl : lengthFault u = none) : FrameCoherent (startWrite u) := by
  have hb := params_bounds hu.params
  have hlen := lengthFault_none.mp hl
  have hframe : txFrame (startWrite u) = builtFrame u.session.xcvr u.session.ctrl u :=
    build_frame u.session.xcvr u.session.ctrl hu.mem hu.params hl
  have hoperands : builtFrame u.session.xcvr u.session.ctrl (startWrite u) =
      builtFrame u.session.xcvr u.session.ctrl u :=
    builtFrame_congr _ _ rfl rfl rfl fun a ha =>
      cellRead_cellWriteSeq_outside _ _ (.inl (by simp only [baseTxbuf]; omega))
  exact ⟨fun _ => hframe.trans hoperands.symm, fun _ => ⟨u.env.wireOut, (List.append_nil _).symm⟩, by simp [startWrite]⟩

/-- Settles O52: XCHG's start establishes the frame, and every other step of an exchange keeps it or ends it. -/
theorem everyStepKeepsTheFrame : Obligations.EveryStepKeepsTheFrame := by
  unfold Obligations.EveryStepKeepsTheFrame
  intro s t hinv h ht
  have hkept : ∀ (e : Env) (f : Flags), e.wireOut = s.env.wireOut → FrameCoherent { s with env := e, flags := f } :=
    fun e f hw => by rw [FrameCoherent, hw]; exact h
  cases hinv.exchangeStep ht with
  | idle _ hf => exact frameCoherent_of_idle hf
  | kept e f hw => exact hkept e f hw
  | started u hu hl => exact frameCoherent_startWrite hu hl
  | engine e env' he hw =>
    have hocc : e.occursIn (s.withEnv env') := by cases e <;> exact he
    exact (hkept env' s.flags hw).engineStep (hinv.withEnv env') hocc

/-! ### The candidate and C_TERM -/

theorem candidateFramed_of_fsm (hr : s.seq.fsm ≠ .read) (hc : s.seq.fsm ≠ .classify) : CandidateFramed s :=
  ⟨fun hf => absurd hf hr, fun hf => absurd hf hc⟩

/-- A read begins with nothing received (R72). -/
theorem candidateFramed_loopGuard (s : State) : CandidateFramed (loopGuard s) := by
  unfold loopGuard
  split
  · exact ⟨fun _ => by simp [candidate, cellReadSeq], nofun⟩
  · exact candidateFramed_of_fsm nofun nofun

/-- A byte taken is the candidate's last one (R73). -/
theorem candidate_takeByte (hm : Memory.wf s.mem = true) (hp : s.params.wf = true)
    (hlt : s.regs.rxLen.toNat < s.params.rxMax) (b : Byte) : candidate (takeByte b s) = candidate s ++ [b] := by
  obtain ⟨w, he⟩ := takeByte_room (b := b) hlt
  have hb := params_bounds hp
  have hlen : (s.regs.rxLen + 1#16).toNat = s.regs.rxLen.toNat + 1 := by
    simp only [BitVec.toNat_add, BitVec.toNat_ofNat]; omega
  rw [he, candidate, hlen, cellReadSeq_succ]
  congr 1
  · exact cellReadSeq_congr fun i hi => cellRead_cellWrite_ne _ _ (by simp only [baseRxbuf]; omega)
  · exact congrArg (fun x => [x]) (cellRead_cellWrite_same hm _ b)

/-- The read goes on exactly while the bytes taken are no C_TERM (R73). -/
theorem CandidateFramed.takeByte (h : CandidateFramed s) (hinv : Invariant s) (hr : s.seq.fsm = .read) (b : Byte) :
    CandidateFramed (takeByte b s) := by
  by_cases hlt : s.regs.rxLen.toNat < s.params.rxMax
  · have hnone : Config.cTerm ∉ candidate s := h.1 hr
    obtain ⟨w, he⟩ := takeByte_room (b := b) hlt
    have hfsm : (Machine.takeByte b s).seq.fsm = if b = Config.cTerm then .classify else s.seq.fsm := by rw [he]
    rw [CandidateFramed, candidate_takeByte hinv.mem hinv.params hlt, hfsm, hr, List.dropLast_concat]
    refine ⟨fun hread => ?_, fun _ => hnone⟩
    have hb : b ≠ Config.cTerm := by rintro rfl; simp at hread
    simp [hnone, hb.symm]
  · rw [takeByte_full (Nat.le_of_not_lt hlt)]
    exact candidateFramed_of_fsm nofun nofun

theorem candidateFramed_txAccept (hw : s.seq.fsm = .write) : CandidateFramed (txAccept s) := by
  by_cases hlt : s.seq.txIdx.toNat + 1 < s.regs.txLen.toNat
  · rw [txAccept_more hlt]
    exact candidateFramed_of_fsm (by simp [hw]) (by simp [hw])
  · rw [txAccept_last (Nat.le_of_not_lt hlt)]
    exact candidateFramed_loopGuard _

theorem candidateFramed_classify (s : State) : CandidateFramed (classify s) := by
  unfold classify
  cases candidateClass s with
  | echo | silence | noSource | foreign => exact candidateFramed_loopGuard _
  | negative | valid => exact candidateFramed_of_fsm nofun nofun

theorem CandidateFramed.engineStep (h : CandidateFramed s) (hinv : Invariant s) {e : EngineEvent}
    (he : e.occursIn s) : CandidateFramed (engineStep e s) := by
  cases e with
  | txAccept => exact candidateFramed_txAccept he.1
  | rxByte b => exact h.takeByte hinv he b
  | rxTimeout => exact ⟨nofun, fun _ hmem => h.1 he (List.mem_of_mem_dropLast hmem)⟩
  | classification => exact candidateFramed_classify s
  | txError | rxError => exact candidateFramed_of_fsm nofun nofun

/-- Settles O53: a read begins empty, and the engine alone adds to the candidate. -/
theorem everyStepKeepsTheFraming : Obligations.EveryStepKeepsTheFraming := by
  unfold Obligations.EveryStepKeepsTheFraming
  intro s t hinv h ht
  cases hinv.exchangeStep ht with
  | idle _ hf => exact candidateFramed_of_fsm (by simp [hf]) (by simp [hf])
  | kept e f _ => exact h
  | started u _ _ => exact candidateFramed_of_fsm nofun nofun
  | engine e env' he _ =>
    have hocc : e.occursIn (s.withEnv env') := by cases e <;> exact he
    exact CandidateFramed.engineStep (s := s.withEnv env') h (hinv.withEnv env') hocc

end Sys2Proof.Safety
end

section
/-! SUPPORT. The decoder and the encoder as inverses in each space, the fields no decoded command word has, and the
receipt of a wire constant. -/

namespace Sys2Proof

/-! ### The table's rows and the encoder -/

/-- A row of the table masks nothing out, and its pattern is the byte of its instruction (R106, R103). -/
theorem row_eq_encode {r : OpcodeRow} (h : r ∈ commandRows ++ wireRows) :
    r.mask = 0xFF#8 ∧ r.pattern = encode r.instr := by
  have hrows : ∀ r ∈ commandRows ++ wireRows, r.mask = 0xFF#8 ∧ r.pattern = encode r.instr := by decide
  exact hrows r h

/-- A byte selects a row only by being that row's byte. -/
theorem encode_of_selectRow {rows : List OpcodeRow} {w : Byte} {i : Instr} (hrows : rows ⊆ commandRows ++ wireRows)
    (h : selectRow rows w = some i) : encode i = w := by
  obtain ⟨r, hr, hmatch, rfl⟩ := Machine.selectRow_mem h
  obtain ⟨hmask, hpattern⟩ := row_eq_encode (hrows hr)
  calc encode r.instr = w &&& r.mask := by rw [hmatch, hpattern]
    _ = w := by rw [hmask]; exact BitVec.and_allOnes

/-- A command word decodes only to the operation that encodes to it (R106). -/
theorem encode_of_decodeCommand {w : Byte} {i : Instr} (h : decodeCommand w = .ok i) : encode i = w := by
  unfold decodeCommand at h
  split at h
  next j hj =>
    obtain rfl : j = i := Except.ok.inj h
    exact encode_of_selectRow (List.subset_append_left _ _) hj
  next => split at h <;> cases h

/-- What a byte decodes to in a space is a row of that space, and encodes to the byte. -/
theorem decode_ok {sp : Space} {b : Byte} {i : Instr} (h : decode sp b = .ok i) : i.space = sp ∧ encode i = b := by
  cases sp with
  | command => exact ⟨Machine.decodeCommand_space h, encode_of_decodeCommand h⟩
  | wire => exact Machine.decodeWire_ok h

/-- The byte of every instruction decodes to it in its own space. -/
theorem decode_encode (i : Instr) : decode i.space (encode i) = .ok i := by
  cases i <;> rfl

/-- Within a space no two instructions share a byte. -/
theorem encode_inj {i j : Instr} (hs : i.space = j.space) : encode i = encode j ↔ i = j := by
  refine ⟨fun h => ?_, congrArg encode⟩
  have hok : Except.ok (ε := Reject) i = .ok j := by rw [← decode_encode i, hs, h, decode_encode j]
  exact Except.ok.inj hok

theorem wf_iff_space {sp : Space} {i : Instr} : i.wf sp = true ↔ i.space = sp := by
  simp [Instr.wf]

/-! ### Reserved command words -/

/-- The words of R107: a bit of 7:4 set, or a selector no operation has. -/
def isReserved (w : Byte) : Prop :=
  w.extractLsb' 4 4 ≠ 0#4 ∨ w.extractLsb' 0 4 ∈ [0#4, 0xD#4, 0xE#4, 0xF#4]

/-- The byte of an operation is no reserved word (R105, R106). -/
theorem not_isReserved_encode {i : Instr} (h : i.space = .command) : ¬ isReserved (encode i) := by
  unfold isReserved
  cases i with
  | cPreMark | cTerm | cOk | cNg => cases h
  | _ => decide

theorem decodeCommand_reserved {w : Byte} (h : isReserved w) : ∃ r, decodeCommand w = .error r := by
  cases hd : decodeCommand w with
  | error r => exact ⟨r, rfl⟩
  | ok i =>
    rw [← encode_of_decodeCommand hd] at h
    exact absurd h (not_isReserved_encode (Machine.decodeCommand_space hd))

end Sys2Proof

namespace Sys2Proof.Machine

open Sys2Proof Sys2Proof.Claims

variable {s : State}

/-- A reserved word accepted and failed leaves what a failure leaves (R107, R252). -/
theorem reservedWord_idle (hb : s.flags.busy = false) : reservedWord s = .next (failed 3#4 0x03#8 s) :=
  onCommand_idle _ hb

/-- A wire constant met by a read with room for it, as a whole next state (R103, R73). -/
theorem exec_wire_room {i : Instr} (hi : i.space = .wire) (hf : s.seq.fsm = .read)
    (hroom : s.regs.rxLen.toNat < s.params.rxMax) :
    ∃ w, exec i s = .next
      { s with
        mem := cellWrite s.mem (0x3000 + s.regs.rxLen.toNat) (encode i)
        regs := { s.regs with rxLen := BitVec.ofNat 16 (s.regs.rxLen.toNat + 1) }
        seq := { s.seq with fsm := if i = .cTerm then .classify else .read }
        written := w } := by
  obtain ⟨w, htake⟩ := takeByte_room (b := encode i) hroom
  have hterm : encode i = Config.cTerm ↔ i = .cTerm := encode_inj (j := .cTerm) hi
  refine ⟨w, ?_⟩
  rw [exec_wire i hi, offerByte_read hf, htake]
  simp only [hterm, hf, add_one_eq_ofNat]

/-! ### The statements -/

/-- Settles O36: `exec_wire_room`, and the laws of the cells for the one element it writes. -/
theorem wireConstantsAreReceived : Obligations.WireConstantsAreReceived := by
  unfold Obligations.WireConstantsAreReceived
  intro i s hi hf _ hm hroom
  obtain ⟨w, hexec⟩ := exec_wire_room (wf_iff_space.mp hi) hf hroom
  exact ⟨_, w, hexec, cellRead_cellWrite_same hm _ _, sameOutside_cellWrite _ _ _⟩

/-- Settles O1: each row's word is the byte of its instruction, which decodes to it. -/
theorem opcodeTableDecodes : Obligations.OpcodeTableDecodes := by
  unfold Obligations.OpcodeTableDecodes
  exact
    ⟨⟨decode_encode .addrvT, decode_encode .addrvN, decode_encode .sinit, decode_encode .bcdenc,
      decode_encode .bcddec, decode_encode .pair2i, decode_encode .interp, decode_encode .rescale,
      decode_encode .prelut, decode_encode .fenc, decode_encode .fdec, decode_encode .xchg⟩,
     decode_encode .cPreMark, decode_encode .cTerm, decode_encode .cOk, decode_encode .cNg⟩

/-- Settles O2: `decode_encode` in one direction, `decode_ok` in the other. -/
theorem decodeInvertsEncode : Obligations.DecodeInvertsEncode := by
  unfold Obligations.DecodeInvertsEncode
  constructor
  · intro sp i hi
    rw [← wf_iff_space.mp hi, decode_encode]
  · intro sp b i hd
    obtain ⟨hspace, hbyte⟩ := decode_ok hd
    exact ⟨wf_iff_space.mpr hspace, hbyte⟩

/-- Settles O5: the CMD write decodes to nothing, and is accepted and failed at once. -/
theorem reservedWordsFail : Obligations.ReservedWordsFail := by
  unfold Obligations.ReservedWordsFail
  intro s v rest h hb hv
  have hreserved : isReserved (v.setWidth 8) := by
    rwa [isReserved, BitVec.extractLsb'_setWidth_of_le (by decide), BitVec.extractLsb'_setWidth_of_le (by decide)]
  obtain ⟨r, hd⟩ := decodeCommand_reserved hreserved
  rw [step_command h, hd]
  exact reservedWord_idle (s := s.withSchedule rest) hb

end Sys2Proof.Machine
end

section
/-! SUPPORT. The address validator and session construction: what the hexadecimal characters and the address form are
worth, and each outcome of ADDRV_T, ADDRV_N and SINIT as a whole next state. -/

namespace Sys2Proof.Machine

open Sys2Proof Sys2Proof.Claims

variable {s : State}

/-! ### The hexadecimal characters (R130) -/

/-- A number a byte can hold is held as it is. -/
theorem toNat_ofNat_byte {n : Nat} (h : n < 256) : (BitVec.ofNat 8 n).toNat = n := Nat.mod_eq_of_lt h

theorem hexVal_digit {c : Byte} (h : 0x30 ≤ c.toNat ∧ c.toNat ≤ 0x39) : hexVal c = some (c.toNat - 0x30) :=
  if_pos h

theorem hexVal_upper {c : Byte} (h : 0x41 ≤ c.toNat ∧ c.toNat ≤ 0x46) : hexVal c = some (c.toNat - 0x41 + 10) := by
  rw [hexVal, if_neg (by omega), if_pos h]

theorem hexVal_lower {c : Byte} (h : 0x61 ≤ c.toNat ∧ c.toNat ≤ 0x66) : hexVal c = some (c.toNat - 0x61 + 10) := by
  rw [hexVal, if_neg (by omega), if_neg (by omega), if_pos h]

/-- A character with a value is of one of the three classes of R130. -/
theorem class_of_hexVal {c : Byte} {v : Nat} (h : hexVal c = some v) :
    (0x30 ≤ c.toNat ∧ c.toNat ≤ 0x39) ∨ (0x41 ≤ c.toNat ∧ c.toNat ≤ 0x46) ∨ (0x61 ≤ c.toNat ∧ c.toNat ≤ 0x66) := by
  unfold hexVal at h
  split at h
  next hdigit => exact .inl hdigit
  next =>
    split at h
    next hupper => exact .inr (.inl hupper)
    next =>
      split at h
      next hlower => exact .inr (.inr hlower)
      next => cases h

/-- A hexadecimal digit is worth less than 16, so two of them make a byte (R131). -/
theorem hexVal_lt {c : Byte} {v : Nat} (h : hexVal c = some v) : v < 16 := by
  rcases class_of_hexVal h with hc | hc | hc
  · rw [hexVal_digit hc] at h; cases h; omega
  · rw [hexVal_upper hc] at h; cases h; omega
  · rw [hexVal_lower hc] at h; cases h; omega

/-! ### The address form (R131) -/

/-- The fixed form with two digits that have values. -/
theorem parseAddr_form {c d : Byte} {h l : Nat} (hc : hexVal c = some h) (hd : hexVal d = some l) :
    parseAddr 4#8 [0x30#8, 0x78#8, c, d] = some (BitVec.ofNat 8 (16 * h + l)) := by
  simp [parseAddr, hc, hd]

/-- ParseAddr accepts nothing but the fixed form. -/
theorem form_of_parseAddr {n : BitVec 8} {t : List Byte} {a : Byte} (hp : parseAddr n t = some a) :
    n = 4#8 ∧ ∃ c d h l, t = [0x30#8, 0x78#8, c, d] ∧ hexVal c = some h ∧ hexVal d = some l := by
  unfold parseAddr at hp
  split at hp
  next hn =>
    refine ⟨BitVec.eq_of_toNat_eq hn, ?_⟩
    split at hp
    next t0 t1 c d =>
      split at hp
      next hprefix =>
        obtain ⟨rfl, rfl⟩ := hprefix
        split at hp
        next h l hc hd => exact ⟨c, d, h, l, rfl, hc, hd⟩
        next => cases hp
      next => cases hp
    next => cases hp
  next => cases hp

/-- ParseAddr in full, whatever the length and the characters. -/
theorem parseAddr_eq_some_iff {n : BitVec 8} {t : List Byte} {a : Byte} :
    parseAddr n t = some a ↔
      n = 4#8 ∧ ∃ c d h l, t = [0x30#8, 0x78#8, c, d] ∧ hexVal c = some h ∧ hexVal d = some l ∧
        a.toNat = 16 * h + l := by
  constructor
  · intro hp
    obtain ⟨rfl, c, d, h, l, rfl, hc, hd⟩ := form_of_parseAddr hp
    rw [parseAddr_form hc hd] at hp
    cases hp
    have hh : h < 16 := hexVal_lt hc
    have hl : l < 16 := hexVal_lt hd
    exact ⟨rfl, c, d, h, l, rfl, hc, hd, toNat_ofNat_byte (by omega)⟩
  · rintro ⟨rfl, c, d, h, l, rfl, hc, hd, ha⟩
    rw [parseAddr_form hc hd, ← ha, BitVec.ofNat_toNat, BitVec.setWidth_eq]

/-! ### An operation from its CMD write to its completion -/

/-- A command accepted while BUSY = 0 runs from the state its acceptance leaves (R80). -/
theorem exec_idle {i : Instr} (hc : i.space = .command) (hb : s.flags.busy = false) :
    exec i s = .next (commandOp i (acceptCommand s)) := by
  rw [exec_command i hc, onCommand_idle _ hb]

/-- A command that fails from its accepted state changes the completion flags and nothing else (R252). -/
theorem exec_fails {i : Instr} {k : FailureKind} {info : Byte} (hc : i.space = .command) (hb : s.flags.busy = false)
    (h : commandOp i (acceptCommand s) = raiseFailure k info (acceptCommand s)) :
    exec i s = .next (failed k.code info s) := by
  rw [exec_idle hc hb, h]
  rfl

/-- A command that delivers a byte in RES8 and completes writes RES8 besides the completion flags (R251). -/
theorem exec_delivers {i : Instr} {b : Byte} (hc : i.space = .command) (hb : s.flags.busy = false)
    (h : commandOp i (acceptCommand s) = completeOk (setRes8 b (acceptCommand s))) :
    ∃ w, exec i s = .next (succeeded { s with regs := { s.regs with res8 := b }, written := w }) := by
  rw [exec_idle hc hb, h]
  exact ⟨_, rfl⟩

/-! ### ADDRV_T and ADDRV_N -/

theorem opAddrvT_valid {a : Byte} (h : textAddr0 s = some a) : opAddrvT s = completeOk (setRes8 a s) := by
  simp only [opAddrvT, h]

theorem opAddrvT_invalid (h : textAddr0 s = none) : opAddrvT s = raiseFailure .invalidAddress 0x01#8 s := by
  simp only [opAddrvT, h]

theorem opAddrvN_inRange (h : s.regs.num0.toNat ≤ 0xFF) :
    opAddrvN s = completeOk (setRes8 (s.regs.num0.setWidth 8) s) :=
  if_neg (Nat.not_lt.mpr h)

theorem opAddrvN_outOfRange (h : 0xFF < s.regs.num0.toNat) :
    opAddrvN s = raiseFailure .invalidAddress 0x01#8 s :=
  if_pos h

/-! ### SINIT: its checks in order (R135) -/

theorem opSinit_again (hv : s.flags.svalid = true) : opSinit s = raiseFailure .invalidArgument 0x09#8 s :=
  if_pos hv

/-- With no Session yet, an invalid text fails, each in its own bit (R136). -/
theorem opSinit_badText (hv : s.flags.svalid = false) (h : textAddr0 s = none ∨ textAddr1 s = none) :
    opSinit s = raiseFailure .invalidAddress (addrFaultInfo (textAddr0 s) (textAddr1 s)) s := by
  simp only [opSinit, hv, Bool.false_eq_true, if_false]
  split
  next c x hc hx => simp [hc, hx] at h
  next => rfl

theorem opSinit_noBudget {c x : Byte} (hv : s.flags.svalid = false) (hc : textAddr0 s = some c)
    (hx : textAddr1 s = some x) (hatt : s.regs.attIn = 0#8) :
    opSinit s = raiseFailure .invalidArgument 0x06#8 s := by
  simp [opSinit, hv, hc, hx, hatt]

theorem opSinit_constructs {c x : Byte} (hv : s.flags.svalid = false) (hc : textAddr0 s = some c)
    (hx : textAddr1 s = some x) (hatt : s.regs.attIn ≠ 0#8) :
    opSinit s = completeOk (markWritten [0x03, 0x04, 0x05]
      { s with
        session := { ctrl := c, xcvr := x, maxAtt := s.regs.attIn }
        flags := { s.flags with svalid := true } }) := by
  simp [opSinit, hv, hc, hx, hatt]

/-- SINIT of an invalid text as a whole next state, from what the two texts parse to. -/
theorem exec_sinit_badText {c x : Option Byte} (hb : s.flags.busy = false) (hv : s.flags.svalid = false)
    (hc : textAddr0 s = c) (hx : textAddr1 s = x) (h : c = none ∨ x = none) :
    exec .sinit s = .next (failed 1#4 (addrFaultInfo c x) s) := by
  subst hc hx
  exact exec_fails (k := .invalidAddress) rfl hb (opSinit_badText (s := acceptCommand s) hv h)

/-! ### The statements -/

/-- Settles O15: `parseAddr_eq_some_iff`, which needs no bound on the text. -/
theorem parseAddrAcceptsTheFixedForm : Obligations.ParseAddrAcceptsTheFixedForm := by
  unfold Obligations.ParseAddrAcceptsTheFixedForm
  exact fun n t a _ => parseAddr_eq_some_iff

/-- Settles O14: the value of each class of characters, and `class_of_hexVal`. -/
theorem hexDigitValues : Obligations.HexDigitValues := by
  unfold Obligations.HexDigitValues
  refine ⟨fun k hk => ?_, fun k hk => ⟨?_, ?_⟩, fun c => ⟨fun h => ?_, ?_⟩⟩
  · have hcode : (BitVec.ofNat 8 (0x30 + k)).toNat = 0x30 + k := toNat_ofNat_byte (by omega)
    rw [hexVal_digit (by omega), hcode, Nat.add_sub_cancel_left]
  · have hcode : (BitVec.ofNat 8 (0x41 + k)).toNat = 0x41 + k := toNat_ofNat_byte (by omega)
    rw [hexVal_upper (by omega), hcode, Nat.add_sub_cancel_left, Nat.add_comm]
  · have hcode : (BitVec.ofNat 8 (0x61 + k)).toNat = 0x61 + k := toNat_ofNat_byte (by omega)
    rw [hexVal_lower (by omega), hcode, Nat.add_sub_cancel_left, Nat.add_comm]
  · obtain ⟨v, hv⟩ := Option.ne_none_iff_exists'.mp h
    exact class_of_hexVal hv
  · rintro (hc | hc | hc)
    · simp [hexVal_digit hc]
    · simp [hexVal_upper hc]
    · simp [hexVal_lower hc]

/-- Settles O16: the two outcomes of ADDRV_T. -/
theorem addrvTValidatesText : Obligations.AddrvTValidatesText := by
  unfold Obligations.AddrvTValidatesText
  intro s hb
  constructor
  · intro a ha
    exact exec_delivers rfl hb (opAddrvT_valid ha)
  · intro hnone
    exact exec_fails (k := .invalidAddress) rfl hb (opAddrvT_invalid hnone)

/-- Settles O17: the two outcomes of ADDRV_N; in range, NUM0[7:0] is the whole of NUM0. -/
theorem addrvNValidatesANumber : Obligations.AddrvNValidatesANumber := by
  unfold Obligations.AddrvNValidatesANumber
  intro s hb
  constructor
  · intro hle
    obtain ⟨w, hexec⟩ := exec_delivers (i := .addrvN) rfl hb (opAddrvN_inRange (s := acceptCommand s) hle)
    have hbyte : (s.regs.num0.setWidth 8).toNat = s.regs.num0.toNat := by
      rw [BitVec.toNat_setWidth]
      omega
    exact ⟨w, _, hexec, hbyte⟩
  · intro hgt
    exact exec_fails (k := .invalidAddress) rfl hb (opAddrvN_outOfRange hgt)

/-- Settles O18: the outcomes of SINIT, in the order of its checks. -/
theorem sinitConstructsTheSession : Obligations.SinitConstructsTheSession := by
  unfold Obligations.SinitConstructsTheSession
  intro s hb c x
  refine ⟨fun hv => ?_, fun hv hc hx => ?_, fun hv hc hx => ?_, fun hv hc hx => ?_, fun hv hc hx hatt => ?_,
    fun cv xv hv hc hx hatt => ?_⟩
  · exact exec_fails (k := .invalidArgument) rfl hb (opSinit_again hv)
  · obtain ⟨xv, hx⟩ := Option.ne_none_iff_exists'.mp hx
    exact exec_sinit_badText hb hv hc hx (.inl rfl)
  · obtain ⟨cv, hc⟩ := Option.ne_none_iff_exists'.mp hc
    exact exec_sinit_badText hb hv hc hx (.inr rfl)
  · exact exec_sinit_badText hb hv hc hx (.inl rfl)
  · obtain ⟨cv, hc⟩ := Option.ne_none_iff_exists'.mp hc
    obtain ⟨xv, hx⟩ := Option.ne_none_iff_exists'.mp hx
    exact exec_fails (k := .invalidArgument) rfl hb (opSinit_noBudget hv hc hx hatt)
  · rw [exec_idle rfl hb, commandOp, opSinit_constructs (s := acceptCommand s) hv hc hx hatt]
    exact ⟨_, rfl⟩

end Sys2Proof.Machine
end

section
/-! SUPPORT. The packed-decimal codecs and the byte pair: what a byte's nibbles and its packed pair are worth, the two
field codecs as base-100 digits and their sum, and each outcome of BCDENC, BCDDEC and PAIR2I as a whole next state. -/

namespace Sys2Proof.Machine

open Sys2Proof Sys2Proof.Claims

variable {s : State}

/-! ### Delivering a rational result -/

/-- A command that delivers a rational result and completes writes the three result registers besides the completion
flags (R159, R251). -/
theorem exec_deliversResult {i : Instr} {q r d : Int} (hc : i.space = .command) (hb : s.flags.busy = false)
    (h : commandOp i (acceptCommand s) = completeOk (setResult q r d (acceptCommand s))) :
    ∃ w, exec i s = .next (succeeded { s with regs := withResult q r d s.regs, written := w }) := by
  rw [exec_idle hc hb, h]
  exact ⟨_, rfl⟩

/-! ### Nibbles and packed pairs (R6, R152) -/

theorem hi4_eq (b : Byte) : hi4 b = b.toNat / 16 := by
  have hlt : b.toNat < 256 := b.isLt
  rw [hi4, BitVec.extractLsb'_toNat, Nat.shiftRight_eq_div_pow]
  omega

theorem lo4_eq (b : Byte) : lo4 b = b.toNat % 16 := by
  rw [lo4, BitVec.extractLsb'_toNat, Nat.shiftRight_zero]

theorem packedPair_eq (b : Byte) : packedPair b = 10 * (b.toNat / 16) + b.toNat % 16 := by
  rw [packedPair, hi4_eq, lo4_eq]

theorem badNibble_iff {b : Byte} : badNibble b = true ↔ 9 < b.toNat / 16 ∨ 9 < b.toNat % 16 := by
  simp [badNibble, hi4_eq, lo4_eq]

theorem badNibble_eq_false_iff {b : Byte} : badNibble b = false ↔ b.toNat / 16 ≤ 9 ∧ b.toNat % 16 ≤ 9 := by
  simp [badNibble, hi4_eq, lo4_eq]

theorem packedPair_lt {b : Byte} (h : badNibble b = false) : packedPair b < 100 := by
  rw [badNibble_eq_false_iff] at h
  rw [packedPair_eq]
  omega

theorem bcdByte_toNat {g : Nat} (h : g < 100) : (bcdByte g).toNat = 16 * (g / 10) + g % 10 :=
  toNat_ofNat_byte (by omega)

theorem badNibble_bcdByte {g : Nat} (h : g < 100) : badNibble (bcdByte g) = false := by
  rw [badNibble_eq_false_iff, bcdByte_toNat h]
  omega

theorem packedPair_bcdByte {g : Nat} (h : g < 100) : packedPair (bcdByte g) = g := by
  rw [packedPair_eq, bcdByte_toNat h]
  omega

theorem bcdByte_packedPair {b : Byte} (h : badNibble b = false) : bcdByte (packedPair b) = b := by
  apply BitVec.eq_of_toNat_eq
  rw [bcdByte_toNat (packedPair_lt h), packedPair_eq]
  rw [badNibble_eq_false_iff] at h
  omega

/-! ### The two field codecs (R151, R153, R154) -/

theorem bcdEncode_length (f : Nat) : (bcdEncode f).length = 5 := rfl

theorem bcdEncode_getElem (f i : Nat) (h : i < (bcdEncode f).length) :
    (bcdEncode f)[i] = bcdByte (f / 100 ^ i % 100) := by
  simp [bcdEncode]

/-- Group i of a frequency holds its decimal digits 2i + 1 and 2i. -/
theorem bcdByte_group_toNat (f i : Nat) :
    (bcdByte (f / 100 ^ i % 100)).toNat = 16 * (f / 10 ^ (2 * i + 1) % 10) + f / 10 ^ (2 * i) % 10 := by
  have hlow : f / 10 ^ (2 * i) = f / 100 ^ i := by rw [pow_mul, show 10 ^ 2 = 100 from rfl]
  have hhigh : f / 10 ^ (2 * i + 1) = f / 100 ^ i / 10 := by rw [pow_succ, ← Nat.div_div_eq_div_mul, hlow]
  rw [bcdByte_toNat (Nat.mod_lt _ (by omega)), hlow, hhigh]
  omega

theorem not_badNibble_bcdEncode {f : Nat} {b : Byte} (h : b ∈ bcdEncode f) : badNibble b = false := by
  obtain ⟨i, -, rfl⟩ := List.mem_map.mp h
  exact badNibble_bcdByte (Nat.mod_lt _ (by omega))

/-- The number of a field whose bytes are given by their index, as a sum over the indices. -/
theorem bcdDecode_map_range (f : Nat → Byte) (n : Nat) :
    bcdDecode ((List.range n).map f) = ∑ i ∈ Finset.range n, packedPair (f i) * 100 ^ i := by
  induction n generalizing f with
  | zero => rfl
  | succ n ih =>
    rw [List.range_succ_eq_map, List.map_cons, List.map_map, bcdDecode, ih, Finset.sum_range_succ', Finset.mul_sum]
    simp only [Function.comp_apply, pow_succ, pow_zero, mul_one, Nat.succ_eq_add_one]
    rw [add_comm]
    congr 1
    exact Finset.sum_congr rfl fun i _ => by ring

/-- The first `n` base-100 digits of a number add up to its remainder. -/
theorem sum_base100_digits (f n : Nat) : ∑ i ∈ Finset.range n, f / 100 ^ i % 100 * 100 ^ i = f % 100 ^ n := by
  induction n with
  | zero => simp [Nat.mod_one]
  | succ n ih => rw [Finset.sum_range_succ, ih, Nat.mod_pow_succ, mul_comm (100 ^ n)]

theorem bcdDecode_bcdEncode {f : Nat} (h : f < 100 ^ 5) : bcdDecode (bcdEncode f) = f :=
  calc bcdDecode (bcdEncode f)
      = ∑ i ∈ Finset.range 5, packedPair (bcdByte (f / 100 ^ i % 100)) * 100 ^ i := bcdDecode_map_range _ 5
    _ = ∑ i ∈ Finset.range 5, f / 100 ^ i % 100 * 100 ^ i :=
        Finset.sum_congr rfl fun i _ => by rw [packedPair_bcdByte (Nat.mod_lt _ (by omega))]
    _ = f % 100 ^ 5 := sum_base100_digits f 5
    _ = f := Nat.mod_eq_of_lt h

theorem bcdDecode_lt {bytes : List Byte} (h : ∀ b ∈ bytes, badNibble b = false) :
    bcdDecode bytes < 100 ^ bytes.length := by
  induction bytes with
  | nil => simp [bcdDecode]
  | cons b rest ih =>
    have hb : packedPair b < 100 := packedPair_lt (h b (by simp))
    have hrest : bcdDecode rest < 100 ^ rest.length := ih fun c hc => h c (by simp [hc])
    rw [bcdDecode, List.length_cons, pow_succ]
    omega

/-- The packed pairs of a good field are the base-100 digits of its number. -/
theorem bcdDecode_digit {bytes : List Byte} (h : ∀ b ∈ bytes, badNibble b = false) {i : Nat} (hi : i < bytes.length) :
    bcdDecode bytes / 100 ^ i % 100 = packedPair bytes[i] := by
  induction bytes generalizing i with
  | nil => simp at hi
  | cons b rest ih =>
    have hb : packedPair b < 100 := packedPair_lt (h b (by simp))
    cases i with
    | zero =>
      rw [bcdDecode, pow_zero, Nat.div_one, List.getElem_cons_zero]
      omega
    | succ j =>
      have hrest : (packedPair b + 100 * bcdDecode rest) / 100 = bcdDecode rest := by omega
      rw [bcdDecode, pow_succ', ← Nat.div_div_eq_div_mul, hrest, List.getElem_cons_succ]
      exact ih (fun c hc => h c (by simp [hc])) (by simpa using hi)

theorem bcdEncode_bcdDecode {bytes : List Byte} (hl : bytes.length = 5) (h : ∀ b ∈ bytes, badNibble b = false) :
    bcdEncode (bcdDecode bytes) = bytes := by
  apply List.ext_getElem (by rw [bcdEncode_length, hl])
  intro i _ hi
  rw [bcdEncode_getElem, bcdDecode_digit h hi, bcdByte_packedPair (h _ (List.getElem_mem hi))]

/-! ### The packed-decimal operand -/

theorem bcdField_length (s : State) : (bcdField s).length = 5 := cellReadSeq_length _ _ _

theorem bcdField_getElem (s : State) (i : Nat) (h : i < (bcdField s).length) :
    (bcdField s)[i] = cellRead s.mem (0x48 + i) :=
  cellReadSeq_getElem _ _ _ _ h

/-- The field is good when each of BCD[0..4] is. -/
theorem not_badNibble_bcdField
    (h : ∀ i < 5, (cellRead s.mem (0x48 + i)).toNat / 16 ≤ 9 ∧ (cellRead s.mem (0x48 + i)).toNat % 16 ≤ 9) :
    ∀ b ∈ bcdField s, badNibble b = false := by
  intro b hb
  obtain ⟨i, hi, rfl⟩ := List.getElem_of_mem hb
  rw [bcdField_getElem, badNibble_eq_false_iff]
  exact h i (by rwa [bcdField_length] at hi)

/-- The number of BCD[0..4], in the terms of R153. -/
theorem bcdDecode_bcdField (s : State) :
    bcdDecode (bcdField s) = ∑ i ∈ Finset.range 5,
      (10 * ((cellRead s.mem (0x48 + i)).toNat / 16) + (cellRead s.mem (0x48 + i)).toNat % 16) * 100 ^ i := by
  rw [bcdField, cellReadSeq, bcdDecode_map_range]
  simp only [packedPair_eq, baseBcd]

/-- The number of a good field is a frequency BCDENC accepts. -/
theorem bcdDecode_bcdField_le (h : ∀ b ∈ bcdField s, badNibble b = false) : bcdDecode (bcdField s) ≤ 9999999999 := by
  have hlt : bcdDecode (bcdField s) < 100 ^ (bcdField s).length := bcdDecode_lt h
  rw [bcdField_length] at hlt
  omega

/-! ### BCDENC: its checks in order (R151) -/

theorem opBcdenc_negative (h : s.regs.freqIn.toInt < 0) : opBcdenc s = raiseFailure .encodeError 0x01#8 s :=
  if_pos h

theorem opBcdenc_tooLarge (h : 9999999999 < s.regs.freqIn.toInt) :
    opBcdenc s = raiseFailure .encodeError 0x02#8 s := by
  have hmax : s.regs.freqIn.toInt > Config.freqMax := h
  have hneg : ¬ s.regs.freqIn.toInt < 0 := by omega
  rw [opBcdenc, if_neg hneg, if_pos hmax]

theorem opBcdenc_encodes (h0 : 0 ≤ s.regs.freqIn.toInt) (hle : s.regs.freqIn.toInt ≤ 9999999999) :
    opBcdenc s = completeOk (markWritten [0x48, 0x49, 0x4A, 0x4B, 0x4C]
      { s with mem := cellWriteSeq s.mem 0x48 (bcdEncode s.regs.freqIn.toInt.toNat) }) := by
  have hmax : ¬ s.regs.freqIn.toInt > Config.freqMax := Int.not_lt.mpr hle
  rw [opBcdenc, if_neg (Int.not_lt.mpr h0), if_neg hmax]
  rfl

/-- BCDENC of a frequency in range as a whole next state. -/
theorem exec_bcdenc_encodes (hb : s.flags.busy = false) (h0 : 0 ≤ s.regs.freqIn.toInt)
    (hle : s.regs.freqIn.toInt ≤ 9999999999) :
    ∃ w, exec .bcdenc s = .next (succeeded
      { s with mem := cellWriteSeq s.mem 0x48 (bcdEncode s.regs.freqIn.toInt.toNat), written := w }) := by
  rw [exec_idle rfl hb, commandOp, opBcdenc_encodes (s := acceptCommand s) h0 hle]
  exact ⟨_, rfl⟩

/-! ### BCDDEC (R153) -/

theorem opBcddec_decodes (h : ∀ b ∈ bcdField s, badNibble b = false) :
    opBcddec s = completeOk (setResult (bcdDecode (bcdField s)) 0 1 s) := by
  simp only [opBcddec, List.findIdx?_eq_none_iff.mpr h]

theorem opBcddec_bad {i : Nat} (h : (bcdField s).findIdx? badNibble = some i) :
    opBcddec s = raiseFailure .decodeError (BitVec.ofNat 8 i) s := by
  simp only [opBcddec, h]

/-- The lowest bad index, in the terms of R153. -/
theorem findIdx?_bcdField {i : Nat} (hi : i < 5)
    (hbad : 9 < (cellRead s.mem (0x48 + i)).toNat / 16 ∨ 9 < (cellRead s.mem (0x48 + i)).toNat % 16)
    (hbelow : ∀ j < i, (cellRead s.mem (0x48 + j)).toNat / 16 ≤ 9 ∧ (cellRead s.mem (0x48 + j)).toNat % 16 ≤ 9) :
    (bcdField s).findIdx? badNibble = some i := by
  refine List.findIdx?_eq_some_iff_getElem.mpr ⟨by rwa [bcdField_length], ?_, fun j hj => ?_⟩
  · rw [bcdField_getElem, badNibble_iff]
    exact hbad
  · rw [bcdField_getElem, Bool.not_eq_true, badNibble_eq_false_iff]
    exact hbelow j hj

/-- BCDDEC of a good field as a whole next state. -/
theorem exec_bcddec_decodes (hb : s.flags.busy = false) (h : ∀ b ∈ bcdField s, badNibble b = false) :
    ∃ w, exec .bcddec s = .next (succeeded
      { s with regs := withResult (bcdDecode (bcdField s)) 0 1 s.regs, written := w }) :=
  exec_deliversResult rfl hb (opBcddec_decodes (s := acceptCommand s) h)

/-! ### The round trips (R154) -/

/-- BCDDEC reads back the frequency BCDENC wrote: the field then holds the groups of the frequency. -/
theorem bcddec_after_bcdenc (hb : s.flags.busy = false) (hwf : Memory.wf s.mem = true)
    (h0 : 0 ≤ s.regs.freqIn.toInt) (hle : s.regs.freqIn.toInt ≤ 9999999999) :
    ∃ t u, exec .bcdenc s = .next t ∧ exec .bcddec t = .next u ∧ u.flags.err = false ∧
      u.regs.res.toInt = s.regs.freqIn.toInt := by
  obtain ⟨w, henc⟩ := exec_bcdenc_encodes hb h0 hle
  generalize ht : succeeded _ = t at henc
  have hfield : bcdField t = bcdEncode s.regs.freqIn.toInt.toNat := by
    rw [← ht]
    exact cellReadSeq_cellWriteSeq hwf _ _
  have hgood : ∀ b ∈ bcdField t, badNibble b = false := by
    rw [hfield]
    exact fun b => not_badNibble_bcdEncode
  obtain ⟨w', hdec⟩ := exec_bcddec_decodes (by rw [← ht]; rfl) hgood
  have hvalue : (bcdDecode (bcdField t) : Int) = s.regs.freqIn.toInt := by
    rw [hfield, bcdDecode_bcdEncode (by omega), Int.toNat_of_nonneg h0]
  refine ⟨t, _, henc, hdec, rfl, ?_⟩
  rw [← hvalue] at h0 hle ⊢
  exact BitVec.toInt_ofInt_eq_self (by omega) (by omega) (by omega)

/-- BCDENC writes back the field BCDDEC read: the number read has the packed pairs of the field as its groups. -/
theorem bcdenc_after_bcddec (hb : s.flags.busy = false) (hwf : Memory.wf s.mem = true)
    (hgood : ∀ b ∈ bcdField s, badNibble b = false) :
    ∃ t u, exec .bcddec s = .next t ∧
      exec .bcdenc { t with regs := { t.regs with freqIn := t.regs.res.setWidth 64 } } = .next u ∧
      u.flags.err = false ∧ ∀ i < 5, cellRead u.mem (0x48 + i) = cellRead s.mem (0x48 + i) := by
  obtain ⟨w, hdec⟩ := exec_bcddec_decodes hb hgood
  generalize ht : succeeded _ = t at hdec
  have hle : bcdDecode (bcdField s) ≤ 9999999999 := bcdDecode_bcdField_le hgood
  have hfreq : (t.regs.res.setWidth 64).toInt = bcdDecode (bcdField s) := by
    have hres : t.regs.res = BitVec.ofNat 66 (bcdDecode (bcdField s)) := by rw [← ht]; rfl
    rw [hres, BitVec.toInt_eq_toNat_of_lt] <;> rw [BitVec.toNat_setWidth, BitVec.toNat_ofNat] <;> omega
  obtain ⟨w', henc⟩ := exec_bcdenc_encodes
    (s := { t with regs := { t.regs with freqIn := t.regs.res.setWidth 64 } })
    (by rw [← ht]; rfl) (by rw [hfreq]; omega) (by rw [hfreq]; omega)
  refine ⟨t, _, hdec, henc, rfl, fun i hi => ?_⟩
  have hmem : t.mem = s.mem := by rw [← ht]; rfl
  have hbytes : bcdEncode (t.regs.res.setWidth 64).toInt.toNat = bcdField s := by
    rw [hfreq, Int.toNat_natCast, bcdEncode_bcdDecode (bcdField_length s) hgood]
  simp only [succeeded, hmem, hbytes]
  rw [cellRead_cellWriteSeq_inside hwf _ (by rwa [bcdField_length]), bcdField_getElem]

/-! ### PAIR2I (R155, R156) -/

theorem opPair2i_eq (s : State) :
    opPair2i s = completeOk (setResult ((100 * (cellRead s.mem 0x50).toNat + 10 * ((cellRead s.mem 0x51).toNat / 16) +
      (cellRead s.mem 0x51).toNat % 16 : Nat)) 0 1 s) := by
  rw [add_assoc, ← packedPair_eq]
  rfl

/-! ### The statements -/

/-- Settles O20: the three outcomes of BCDENC; byte i of the field is read back by `cellRead_cellWriteSeq_inside`. -/
theorem bcdencWritesTheDigits : Obligations.BcdencWritesTheDigits := by
  unfold Obligations.BcdencWritesTheDigits
  intro s hb
  refine ⟨fun hwf h0 hle => ?_, fun hneg => ?_, fun hlarge => ?_⟩
  · obtain ⟨w, hexec⟩ := exec_bcdenc_encodes hb h0 hle
    refine ⟨_, w, hexec, fun a ha => cellRead_cellWriteSeq_outside _ _ ha, fun i hi => ?_⟩
    have hlen : i < (bcdEncode s.regs.freqIn.toInt.toNat).length := hi
    rw [cellRead_cellWriteSeq_inside hwf _ hlen, bcdEncode_getElem, bcdByte_group_toNat]
  · exact exec_fails (k := .encodeError) rfl hb (opBcdenc_negative hneg)
  · exact exec_fails (k := .encodeError) rfl hb (opBcdenc_tooLarge hlarge)

/-- Settles O21: the two outcomes of BCDDEC. -/
theorem bcddecReadsTheDigits : Obligations.BcddecReadsTheDigits := by
  unfold Obligations.BcddecReadsTheDigits
  intro s hb
  refine ⟨fun hgood => ?_, fun i hi hbad hbelow => ?_⟩
  · rw [← bcdDecode_bcdField]
    exact exec_bcddec_decodes hb (not_badNibble_bcdField hgood)
  · exact exec_fails (k := .decodeError) rfl hb
      (opBcddec_bad (s := acceptCommand s) (findIdx?_bcdField hi hbad hbelow))

/-- Settles O23. -/
theorem pair2iComposesThePair : Obligations.Pair2iComposesThePair := by
  unfold Obligations.Pair2iComposesThePair
  intro s hb
  exact exec_deliversResult rfl hb (opPair2i_eq (acceptCommand s))

/-- Settles O22: the two round trips of R154. -/
theorem bcdRoundTrips : Obligations.BcdRoundTrips := by
  unfold Obligations.BcdRoundTrips
  exact ⟨fun s hb hwf h0 hle => bcddec_after_bcdenc hb hwf h0 hle,
    fun s hb hwf hgood => bcdenc_after_bcddec hb hwf (not_badNibble_bcdField hgood)⟩

end Sys2Proof.Machine
end

section
/-! SUPPORT. INTERP and RESCALE: the exact rational result and the registers that hold it, interpolation over
breakpoints given by their index, and each outcome of the two operations as a whole next state. -/

namespace Sys2Proof.Machine

open Sys2Proof Sys2Proof.Claims

variable {s : State}

/-! ### The rational result and its registers (R159, R163) -/

/-- A quotient of 66 signed bits is delivered as it is. -/
theorem withResult_res {q : Int} (r d : Int) (g : Regs) (hq : q.natAbs < 2 ^ 65) :
    (withResult q r d g).res.toInt = q :=
  BitVec.toInt_ofInt_eq_self (by omega) (by omega) (by omega)

/-- A remainder of 33 bits is delivered as it is. -/
theorem withResult_resRem {r : Int} (q d : Int) (g : Regs) (h0 : 0 ≤ r) (hr : r < 2 ^ 33) :
    ((withResult q r d g).resRem.toNat : Int) = r := by
  rw [withResult, BitVec.toNat_ofInt]
  omega

/-- A denominator of 33 bits is delivered as it is. -/
theorem withResult_resDen {d : Int} (q r : Int) (g : Regs) (h0 : 0 ≤ d) (hd : d < 2 ^ 33) :
    ((withResult q r d g).resDen.toNat : Int) = d := by
  rw [withResult, BitVec.toNat_ofInt]
  omega

/-- Registers `g'` that a fitting result was delivered to hold it exactly: RES + RES_REM / RES_DEN is base + n / d. -/
theorem withResult_ratio_exact {base n d : Int} {g g' : Regs} (hg : withResult (base + n / d) (n % d) d g = g')
    (hd0 : 0 < d) (hd : d < 2 ^ 33) (hq : (base + n / d).natAbs < 2 ^ 65) :
    g'.res.toInt = base + n / d ∧ (g'.resDen.toNat : Int) = d ∧ g'.resRem.toNat < g'.resDen.toNat ∧
      g'.res.toInt * d + g'.resRem.toNat = base * d + n := by
  have hrem : 0 ≤ n % d := Int.emod_nonneg n hd0.ne'
  have hlt : n % d < d := Int.emod_lt_of_pos n hd0
  have hres : g'.res.toInt = base + n / d := hg ▸ withResult_res _ _ g hq
  have hresRem : (g'.resRem.toNat : Int) = n % d := hg ▸ withResult_resRem _ _ g hrem (hlt.trans hd)
  have hresDen : (g'.resDen.toNat : Int) = d := hg ▸ withResult_resDen _ _ g hd0.le hd
  refine ⟨hres, hresDen, by omega, ?_⟩
  rw [hres, hresRem]
  linear_combination Int.mul_ediv_add_emod n d

theorem ratio_mul (base k : Int) {d : Int} (hd : d ≠ 0) : ratio base (d * k) d = (base + k, 0, d) := by
  rw [ratio, Int.mul_ediv_cancel_left k hd, Int.mul_emod_right]

/-! ### Breakpoints given by their index (R35, R158) -/

/-- The first `n` breakpoints rise strictly. -/
def Rising (pt : Nat → Int × Int) (n : Nat) : Prop := ∀ i, i + 1 < n → (pt i).1 < (pt (i + 1)).1

theorem strictlyRising_iff_isChain (points : List (Int × Int)) :
    strictlyRising points = true ↔ points.IsChain fun p q => p.1 < q.1 := by
  induction points with
  | nil => simp [strictlyRising]
  | cons p rest ih =>
    cases rest with
    | nil => simp [strictlyRising]
    | cons q more => simp [strictlyRising, ih]

theorem strictlyRising_iff (pt : Nat → Int × Int) (n : Nat) :
    strictlyRising ((List.range n).map pt) = true ↔ Rising pt n := by
  rw [strictlyRising_iff_isChain, List.isChain_map, List.isChain_range]
  exact ⟨fun h i hi => h i (by omega), fun h i hi => h i (by omega)⟩

variable {pt : Nat → Int × Int} {n : Nat} {x : Int}

theorem Rising.le (h : Rising pt n) {i j : Nat} (hij : i ≤ j) (hj : j < n) : (pt i).1 ≤ (pt j).1 := by
  induction j, hij using Nat.le_induction with
  | base => exact le_rfl
  | succ j _ ih => exact (ih (by omega)).trans (h j hj).le

/-! ### Interpolation, breakpoint by breakpoint (R157, R158) -/

/-- The breakpoints from index `k + 1` on, as many as `m`. -/
def pointsAfter (pt : Nat → Int × Int) (k m : Nat) : List (Int × Int) := (List.range' (k + 1) m).map pt

theorem pointsAfter_succ (pt : Nat → Int × Int) (k m : Nat) :
    pointsAfter pt k (m + 1) = pt (k + 1) :: pointsAfter pt (k + 1) m := rfl

/-- The search passes every breakpoint that is not above `x`. -/
theorem interpolateFrom_passes {k j m : Nat} (h : ∀ i, i ≤ k + j → (pt i).1 ≤ x) :
    interpolateFrom (pt k) (pointsAfter pt k (j + m)) x =
      interpolateFrom (pt (k + j)) (pointsAfter pt (k + j) m) x := by
  induction j generalizing k with
  | zero => rw [Nat.zero_add, Nat.add_zero]
  | succ j ih =>
    have hnot : ¬ x < (pt (k + 1)).1 := Int.not_lt.mpr (h (k + 1) (by omega))
    rw [show j + 1 + m = j + m + 1 by omega, pointsAfter_succ, interpolateFrom, if_neg hnot,
      ih fun i hi => h i (by omega), show k + 1 + j = k + (j + 1) by omega]

/-- At or below the first breakpoint: its value. -/
theorem interpolate_first (hn : 0 < n) (hx : x ≤ (pt 0).1) :
    interpolate ((List.range n).map pt) x = ((pt 0).2, 0, 1) := by
  obtain ⟨m, rfl⟩ := Nat.exists_eq_succ_of_ne_zero hn.ne'
  rw [List.range_succ_eq_map, List.map_cons, interpolate, if_pos hx]

/-- Above the first breakpoint, the search stands at any breakpoint `k` that is not above `x`. -/
theorem interpolate_passes (h : Rising pt n) {k m : Nat} (hn : n = k + m + 1) (h0 : (pt 0).1 < x)
    (hk : (pt k).1 ≤ x) :
    interpolate ((List.range n).map pt) x = interpolateFrom (pt k) (pointsAfter pt k m) x := by
  have hpass : ∀ i, i ≤ 0 + k → (pt i).1 ≤ x := fun i hi => (h.le (by omega) (by omega)).trans hk
  have hpoints : (List.range n).map pt = pt 0 :: pointsAfter pt 0 (k + m) := by
    rw [hn, List.range_eq_range', List.range'_succ, List.map_cons]
    rfl
  rw [hpoints, interpolate, if_neg (Int.not_le.mpr h0), interpolateFrom_passes hpass, Nat.zero_add]

/-- At or above the last breakpoint: its value. -/
theorem interpolate_last (h : Rising pt n) (hn : 0 < n) (hx : (pt (n - 1)).1 ≤ x) :
    interpolate ((List.range n).map pt) x = ((pt (n - 1)).2, 0, 1) := by
  rcases lt_or_ge (pt 0).1 x with h0 | h0
  · rw [interpolate_passes (m := 0) h (by omega) h0 hx]
    rfl
  · have hle : (pt 0).1 ≤ (pt (n - 1)).1 := h.le (by omega) (by omega)
    have hone : n - 1 = 0 := by
      by_contra hne
      have hlt : (pt 0).1 < (pt (0 + 1)).1 := h 0 (by omega)
      have hle' : (pt (0 + 1)).1 ≤ (pt (n - 1)).1 := h.le (by omega) (by omega)
      omega
    rw [interpolate_first hn h0, hone]

/-- From breakpoint `k` on and below the next: the breakpoint's own value on it, inside the segment R159's result. -/
theorem interpolate_segment (h : Rising pt n) {k : Nat} (hk : k + 1 < n) (h0 : (pt 0).1 < x) (hle : (pt k).1 ≤ x)
    (hlt : x < (pt (k + 1)).1) :
    interpolate ((List.range n).map pt) x =
      if x = (pt k).1 then ((pt k).2, 0, 1)
      else ratio (pt k).2 ((x - (pt k).1) * ((pt (k + 1)).2 - (pt k).2)) ((pt (k + 1)).1 - (pt k).1) := by
  obtain ⟨m, rfl⟩ := Nat.exists_eq_add_of_lt hk
  rw [interpolate_passes (k := k) (m := m + 1) h (by omega) h0 hle, pointsAfter_succ, interpolateFrom, if_pos hlt]

/-- Strictly inside segment `k`. -/
theorem interpolate_inside (h : Rising pt n) {k : Nat} (hk : k + 1 < n) (hlow : (pt k).1 < x)
    (hhigh : x < (pt (k + 1)).1) :
    interpolate ((List.range n).map pt) x =
      ratio (pt k).2 ((x - (pt k).1) * ((pt (k + 1)).2 - (pt k).2)) ((pt (k + 1)).1 - (pt k).1) := by
  have h0 : (pt 0).1 < x := (h.le (Nat.zero_le k) (by omega)).trans_lt hlow
  rw [interpolate_segment h hk h0 hlow.le hhigh, if_neg hlow.ne']

/-- On a breakpoint: its own value, whether it is the first, the last or between. -/
theorem interpolate_breakpoint (h : Rising pt n) {k : Nat} (hk : k < n) (hx : x = (pt k).1) :
    interpolate ((List.range n).map pt) x = ((pt k).2, 0, 1) := by
  rcases Nat.eq_zero_or_pos k with rfl | hpos
  · exact interpolate_first hk hx.le
  rcases Nat.lt_or_ge (k + 1) n with hnext | hend
  · have hfirst : (pt 0).1 < (pt (0 + 1)).1 := h 0 (by omega)
    have h0 : (pt 0).1 < x := hx ▸ hfirst.trans_le (h.le hpos hk)
    rw [interpolate_segment h hnext h0 hx.ge (hx ▸ h k hnext), if_pos hx]
  · obtain rfl : k = n - 1 := by omega
    exact interpolate_last h (by omega) hx.ge

/-! ### INTERP: its checks in order (R160) -/

/-- Breakpoint `i` of the table. -/
def point (s : State) (i : Nat) : Int × Int := (ptRaw s i, ptVal s i)

theorem breakpoints_eq (s : State) : breakpoints s = (List.range s.regs.npoints.toNat).map (point s) := rfl

theorem opInterp_empty (h : s.regs.npoints.toNat = 0) : opInterp s = raiseFailure .invalidArgument 0x01#8 s :=
  if_pos h

theorem opInterp_tooLong (hpos : 0 < s.regs.npoints.toNat) (h : s.params.maxPoints < s.regs.npoints.toNat) :
    opInterp s = raiseFailure .invalidArgument 0x05#8 s := by
  rw [opInterp, if_neg hpos.ne', if_pos h]

theorem opInterp_notRising (hpos : 0 < s.regs.npoints.toNat) (hle : s.regs.npoints.toNat ≤ s.params.maxPoints)
    (h : ¬ Rising (point s) s.regs.npoints.toNat) : opInterp s = raiseFailure .invalidArgument 0x07#8 s := by
  rw [← strictlyRising_iff, ← breakpoints_eq] at h
  rw [opInterp, if_neg hpos.ne', if_neg (Nat.not_lt.mpr hle), if_neg h]

theorem opInterp_rising (hpos : 0 < s.regs.npoints.toNat) (hle : s.regs.npoints.toNat ≤ s.params.maxPoints)
    (h : Rising (point s) s.regs.npoints.toNat) :
    opInterp s = completeOk (deliver (interpolate (breakpoints s) s.regs.xIn.toInt) s) := by
  rw [← strictlyRising_iff, ← breakpoints_eq] at h
  rw [opInterp, if_neg hpos.ne', if_neg (Nat.not_lt.mpr hle), if_pos h]

/-- INTERP over a table that passes the checks, as a whole next state, from the value interpolated. -/
theorem exec_interp_delivers {q r d : Int} (hb : s.flags.busy = false) (hpos : 0 < s.regs.npoints.toNat)
    (hle : s.regs.npoints.toNat ≤ s.params.maxPoints) (h : Rising (point s) s.regs.npoints.toNat)
    (hv : interpolate ((List.range s.regs.npoints.toNat).map (point s)) s.regs.xIn.toInt = (q, r, d)) :
    ∃ w, exec .interp s = .next (succeeded { s with regs := withResult q r d s.regs, written := w }) := by
  have hop : opInterp (acceptCommand s) = completeOk (setResult q r d (acceptCommand s)) := by
    have hvalue : interpolate (breakpoints (acceptCommand s)) (acceptCommand s).regs.xIn.toInt = (q, r, d) := hv
    rw [opInterp_rising (s := acceptCommand s) hpos hle h, hvalue]
    rfl
  exact exec_deliversResult rfl hb hop

/-- INTERP strictly inside segment `k`, as a whole next state (R159). -/
theorem exec_interp_inside (hb : s.flags.busy = false) (hle : s.regs.npoints.toNat ≤ s.params.maxPoints)
    (h : Rising (point s) s.regs.npoints.toNat) {k : Nat} (hk : k + 1 < s.regs.npoints.toNat)
    (hlow : ptRaw s k < s.regs.xIn.toInt) (hhigh : s.regs.xIn.toInt < ptRaw s (k + 1)) :
    let n := (s.regs.xIn.toInt - ptRaw s k) * (ptVal s (k + 1) - ptVal s k)
    let d := ptRaw s (k + 1) - ptRaw s k
    ∃ w, exec .interp s = .next (succeeded
      { s with regs := withResult (ptVal s k + n / d) (n % d) d s.regs, written := w }) :=
  exec_interp_delivers hb (Nat.zero_lt_of_lt hk) hle h (interpolate_inside h hk hlow hhigh)

/-! ### The size of the operands and of an interpolated value (R163) -/

/-- The size of a range between two 32-bit registers. -/
theorem natAbs_toInt_sub_lt (a b : BitVec 32) : (a.toInt - b.toInt).natAbs < 2 ^ 32 := by
  have ha := a.le_toInt
  have ha' := a.toInt_lt
  have hb := b.le_toInt
  have hb' := b.toInt_lt
  omega

theorem natAbs_toInt_le (a : BitVec 32) : a.toInt.natAbs ≤ 2 ^ 31 := by
  have ha := a.le_toInt
  have ha' := a.toInt_lt
  omega

/-- Inside a segment the value lies between the two breakpoint values. -/
theorem segment_bounds {a d y z : Int} (ha : 0 ≤ a) (had : a ≤ d) (hd : 0 < d) :
    min y z ≤ y + a * (z - y) / d ∧ y + a * (z - y) / d ≤ max y z := by
  rcases le_total y z with hyz | hyz
  · have hlow : 0 ≤ a * (z - y) / d := Int.ediv_nonneg (mul_nonneg ha (by omega)) hd.le
    have hhigh : a * (z - y) / d ≤ z - y :=
      Int.ediv_le_of_le_mul hd (by nlinarith only [had, hyz])
    omega
  · have hlow : z - y ≤ a * (z - y) / d :=
      Int.le_ediv_of_mul_le hd (by nlinarith only [had, hyz])
    have hhigh : a * (z - y) / d ≤ 0 := Int.ediv_nonpos_of_nonpos_of_neg (by nlinarith only [ha, hyz]) hd
    omega

/-! ### RESCALE (R161, R162) -/

/-- Over an old range that is not degenerate the two branches of the model are one rational, its denominator the size
of the range. -/
theorem rescale_eq_ratio {x oldMin oldMax : Int} (newMin newMax : Int) (h : oldMax - oldMin ≠ 0) :
    rescale x oldMin oldMax newMin newMax =
      ratio newMin ((oldMax - oldMin).sign * ((x - oldMin) * (newMax - newMin))) (oldMax - oldMin).natAbs := by
  rw [rescale, if_neg h]
  rcases lt_or_gt_of_ne h with hneg | hpos
  · rw [if_pos hneg, Int.sign_eq_neg_one_of_neg hneg, neg_one_mul, Int.ofNat_natAbs_of_nonpos hneg.le]
  · rw [if_neg hpos.not_gt, Int.sign_eq_one_of_pos hpos, one_mul, Int.natAbs_of_nonneg hpos.le]

theorem rescale_degenerate {x oldMin oldMax : Int} (newMin newMax : Int) (h : oldMax - oldMin = 0) :
    rescale x oldMin oldMax newMin newMax = (newMin, 0, 1) :=
  if_pos h

theorem rescale_oldMin {oldMin oldMax : Int} (newMin newMax : Int) (h : oldMax - oldMin ≠ 0) :
    rescale oldMin oldMin oldMax newMin newMax = (newMin, 0, ((oldMax - oldMin).natAbs : Int)) := by
  have hnum : (oldMax - oldMin).sign * ((oldMin - oldMin) * (newMax - newMin)) = (oldMax - oldMin).natAbs * 0 := by
    ring
  rw [rescale_eq_ratio _ _ h, hnum, ratio_mul _ _ (by omega), add_zero]

theorem rescale_oldMax {oldMin oldMax : Int} (newMin newMax : Int) (h : oldMax - oldMin ≠ 0) :
    rescale oldMax oldMin oldMax newMin newMax = (newMax, 0, ((oldMax - oldMin).natAbs : Int)) := by
  rw [rescale_eq_ratio _ _ h, ← mul_assoc, Int.sign_mul_self_eq_natAbs, ratio_mul _ _ (by omega), add_sub_cancel]

/-- The value RESCALE delivers from the operands of `s`. -/
def rescaled (s : State) : Int × Int × Int :=
  rescale s.regs.xIn.toInt s.regs.oldMin.toInt s.regs.oldMax.toInt s.regs.newMin.toInt s.regs.newMax.toInt

/-- RESCALE as a whole next state. -/
theorem exec_rescale (hb : s.flags.busy = false) :
    ∃ w, exec .rescale s = .next (succeeded
      { s with regs := withResult (rescaled s).1 (rescaled s).2.1 (rescaled s).2.2 s.regs, written := w }) :=
  exec_deliversResult rfl hb rfl

/-- A rescaled value fits RES: its numerator is at most the product of the sizes of two ranges (R163). -/
theorem rescale_fits (s : State) (d : Int) {e : Int} (he : e.natAbs ≤ 1) :
    (s.regs.newMin.toInt + e * ((s.regs.xIn.toInt - s.regs.oldMin.toInt) *
      (s.regs.newMax.toInt - s.regs.newMin.toInt)) / d).natAbs < 2 ^ 65 := by
  have hx := natAbs_toInt_sub_lt s.regs.xIn s.regs.oldMin
  have hy := natAbs_toInt_sub_lt s.regs.newMax s.regs.newMin
  have hmin := natAbs_toInt_le s.regs.newMin
  generalize s.regs.xIn.toInt - s.regs.oldMin.toInt = a at hx
  generalize s.regs.newMax.toInt - s.regs.newMin.toInt = b at hy
  have hnum : (e * (a * b)).natAbs ≤ 1 * (2 ^ 32 * 2 ^ 32) := by
    rw [Int.natAbs_mul, Int.natAbs_mul]
    exact Nat.mul_le_mul he (Nat.mul_le_mul hx.le hy.le)
  have hquot : (e * (a * b) / d).natAbs ≤ (e * (a * b)).natAbs := Int.natAbs_ediv_le_natAbs _ _
  omega

/-! ### The statements -/

/-- Settles O26: the three table checks. -/
theorem interpChecksItsTable : Obligations.InterpChecksItsTable := by
  unfold Obligations.InterpChecksItsTable
  intro s hb
  refine ⟨fun hzero => ?_, fun hpos hlong => ?_, fun i hle hi hbad => ?_⟩
  · exact exec_fails (k := .invalidArgument) rfl hb (opInterp_empty hzero)
  · exact exec_fails (k := .invalidArgument) rfl hb (opInterp_tooLong hpos hlong)
  · have hnot : ¬ Rising (point s) s.regs.npoints.toNat := fun h => (h i hi).not_ge hbad
    exact exec_fails (k := .invalidArgument) rfl hb
      (opInterp_notRising (s := acceptCommand s) (Nat.zero_lt_of_lt hi) hle hnot)

/-- Settles O24: each place of X_IN in the table, by its `interpolate_` lemma. -/
theorem interpEvaluatesTheTable : Obligations.InterpEvaluatesTheTable := by
  unfold Obligations.InterpEvaluatesTheTable
  intro s hb hpos hle hrise
  have hrising : Rising (point s) s.regs.npoints.toNat := hrise
  refine ⟨fun hx => ?_, fun hx => ?_, fun k hk hx => ?_, fun k hk hlow hhigh => ?_⟩
  · exact exec_interp_delivers hb hpos hle hrising (interpolate_first hpos hx)
  · exact exec_interp_delivers hb hpos hle hrising (interpolate_last hrising hpos hx)
  · exact exec_interp_delivers hb hpos hle hrising (interpolate_breakpoint hrising hk hx)
  · have hd : 0 ≤ ptRaw s (k + 1) - ptRaw s k := Int.sub_nonneg.mpr (hrise k hk).le
    rw [Int.fdiv_eq_ediv_of_nonneg _ hd, Int.fmod_eq_emod_of_nonneg _ hd]
    exact exec_interp_inside hb hle hrising hk hlow hhigh

/-- Settles O25: the value of a segment lies between its breakpoint values, so it fits the registers, which then hold
it exactly. -/
theorem interpResultIsExact : Obligations.InterpResultIsExact := by
  unfold Obligations.InterpResultIsExact
  intro s k hb hle hrise hk hlow hhigh
  obtain ⟨w, hexec⟩ := exec_interp_inside hb hle hrise hk hlow hhigh
  have hd0 : 0 < ptRaw s (k + 1) - ptRaw s k := Int.sub_pos.mpr (hrise k hk)
  have hd : (ptRaw s (k + 1) - ptRaw s k).natAbs < 2 ^ 32 := natAbs_toInt_sub_lt _ _
  obtain ⟨hmin, hmax⟩ := segment_bounds (a := s.regs.xIn.toInt - ptRaw s k) (d := ptRaw s (k + 1) - ptRaw s k)
    (y := ptVal s k) (z := ptVal s (k + 1)) (by omega) (by omega) hd0
  have hy : (ptVal s k).natAbs ≤ 2 ^ 31 := natAbs_toInt_le _
  have hz : (ptVal s (k + 1)).natAbs ≤ 2 ^ 31 := natAbs_toInt_le _
  have hfits : (ptVal s k + (s.regs.xIn.toInt - ptRaw s k) * (ptVal s (k + 1) - ptVal s k) /
      (ptRaw s (k + 1) - ptRaw s k)).natAbs < 2 ^ 65 := by omega
  generalize hg : withResult _ _ _ s.regs = g at hexec
  obtain ⟨hres, hden, hrem, hexact⟩ := withResult_ratio_exact hg hd0 (by omega) hfits
  rw [← hden] at hexact
  rw [← hres] at hmin hmax
  exact ⟨_, hexec, hden, hrem, hexact, hmin, hmax⟩

/-- Settles O27: the degenerate old range, and the exact rational over any other. -/
theorem rescaleIsTheAffineMap : Obligations.RescaleIsTheAffineMap := by
  unfold Obligations.RescaleIsTheAffineMap
  intro s hb d n
  obtain ⟨w, hexec⟩ := exec_rescale hb
  refine ⟨_, w, hexec, rfl, fun hzero => ?_, fun hne => ?_⟩
  · have hvalue : rescaled s = (s.regs.newMin.toInt, 0, 1) := rescale_degenerate _ _ hzero
    have hfits := natAbs_toInt_le s.regs.newMin
    simp only [succeeded, hvalue]
    exact ⟨withResult_res _ _ _ (by omega), rfl, rfl⟩
  · have hvalue : rescaled s = ratio s.regs.newMin.toInt (d.sign * n) d.natAbs := rescale_eq_ratio _ _ hne
    have hd : d.natAbs < 2 ^ 32 := natAbs_toInt_sub_lt _ _
    obtain ⟨-, hden, hrem, hexact⟩ := withResult_ratio_exact (g := s.regs) rfl (by omega) (by omega)
      (rescale_fits s d.natAbs (Int.natAbs_sign_of_ne_zero hne).le)
    simp only [succeeded, hvalue]
    exact ⟨Int.natCast_inj.mp hden, hrem, hexact⟩

/-- Settles O28: at an end point of the old range the numerator is a multiple of the denominator. -/
theorem rescaleMeetsItsEndPoints : Obligations.RescaleMeetsItsEndPoints := by
  unfold Obligations.RescaleMeetsItsEndPoints
  intro s hb hne
  obtain ⟨w, hexec⟩ := exec_rescale hb
  have hd : s.regs.oldMax.toInt - s.regs.oldMin.toInt ≠ 0 := fun h =>
    hne (BitVec.toInt_inj.mp (Int.sub_eq_zero.mp h).symm)
  refine ⟨_, hexec, fun hx => ?_, fun hx => ?_⟩
  · have hvalue := rescale_oldMin s.regs.newMin.toInt s.regs.newMax.toInt hd
    have hfits := natAbs_toInt_le s.regs.newMin
    simp only [succeeded, rescaled, hx, hvalue]
    exact ⟨withResult_res _ _ _ (by omega), rfl⟩
  · have hvalue := rescale_oldMax s.regs.newMin.toInt s.regs.newMax.toInt hd
    have hfits := natAbs_toInt_le s.regs.newMax
    simp only [succeeded, rescaled, hx, hvalue]
    exact ⟨withResult_res _ _ _ (by omega), rfl⟩

end Sys2Proof.Machine
end

section
/-! SUPPORT. The frame codec: the bytes of an encoded frame by their position, each outcome of PRELUT, FENC and FDEC as
a whole next state, and an encoded frame read back. -/

namespace Sys2Proof.Machine

open Sys2Proof Sys2Proof.Claims

variable {s : State} {dst src : Byte} {opc pay : List Byte} {p j : Nat}

/-! ### PRELUT (R180) -/

theorem wakeLookup_wakeTable (b : Nat) :
    wakeLookup Config.wakeTable b =
      if b = 115200 then 150#8 else if b = 57600 then 75#8 else if b = 38400 then 50#8
        else if b = 19200 then 25#8 else if b = 9600 then 13#8 else 7#8 := rfl

/-! ### The bytes of a frame by their position (R101) -/

/-- A frame as the wake bytes with the marker, the two addresses, the data bytes and the terminator. -/
theorem frameEncode_eq (dst src : Byte) (opc pay : List Byte) (p : Nat) :
    frameEncode dst src opc pay p =
      List.replicate (p + 2) 0xFE#8 ++ dst :: src :: (opc ++ pay ++ [0xFD#8]) := by
  have hmarker : List.replicate (p + 2) 0xFE#8 = List.replicate p Config.cPre ++ [Config.cMark, Config.cMark] :=
    List.replicate_add p 2 _
  simp [frameEncode, hmarker, Config.cTerm]

/-- The preamble and the marker behind it are the same byte. -/
theorem frameEncode_getElem?_wake (hj : j < p + 2) : (frameEncode dst src opc pay p)[j]? = some 0xFE#8 := by
  rw [frameEncode_eq, List.getElem?_append_left (by rwa [List.length_replicate]), List.getElem?_replicate_of_lt hj]

theorem frameEncode_getElem?_behind_wake :
    (frameEncode dst src opc pay p)[p + 2 + j]? = (dst :: src :: (opc ++ pay ++ [0xFD#8]))[j]? := by
  rw [frameEncode_eq, List.getElem?_append_right (by rw [List.length_replicate]; omega), List.length_replicate,
    Nat.add_sub_cancel_left]

theorem frameEncode_getElem?_dst : (frameEncode dst src opc pay p)[p + 2]? = some dst :=
  frameEncode_getElem?_behind_wake (j := 0)

theorem frameEncode_getElem?_src : (frameEncode dst src opc pay p)[p + 3]? = some src :=
  frameEncode_getElem?_behind_wake (j := 1)

/-- The data bytes of a frame are its opcode and its payload. -/
theorem frameEncode_getElem?_data (hj : j < (opc ++ pay).length) :
    (frameEncode dst src opc pay p)[p + 4 + j]? = (opc ++ pay)[j]? := by
  rw [show p + 4 + j = p + 2 + (j + 2) by omega, frameEncode_getElem?_behind_wake]
  exact List.getElem?_append_left hj

theorem frameEncode_getElem?_opcode (hj : j < opc.length) :
    (frameEncode dst src opc pay p)[p + 4 + j]? = opc[j]? := by
  rw [frameEncode_getElem?_data (by rw [List.length_append]; omega), List.getElem?_append_left hj]

theorem frameEncode_getElem?_payload (hj : j < pay.length) :
    (frameEncode dst src opc pay p)[p + 4 + opc.length + j]? = pay[j]? := by
  rw [Nat.add_assoc, frameEncode_getElem?_data (by rw [List.length_append]; omega),
    List.getElem?_append_right (Nat.le_add_right _ _), Nat.add_sub_cancel_left]

theorem frameEncode_getElem?_terminator :
    (frameEncode dst src opc pay p)[p + 4 + opc.length + pay.length]? = some 0xFD#8 := by
  rw [show p + 4 + opc.length + pay.length = p + 2 + ((opc ++ pay).length + 2) by rw [List.length_append]; omega,
    frameEncode_getElem?_behind_wake]
  exact List.getElem?_concat_length

/-! ### FENC (R182, R183) -/

theorem opFenc_fails {k : FailureKind} {info : Byte} (h : lengthFault s = some (k, info)) :
    opFenc s = raiseFailure k info s := by
  simp only [opFenc, h]

theorem opFenc_builds (h : lengthFault s = none) : opFenc s = completeOk (build s.regs.fdst s.regs.fsrc s) := by
  simp only [opFenc, h]

/-- FENC of accepted lengths as a whole next state. -/
theorem exec_fenc_builds (hb : s.flags.busy = false) (h : lengthFault s = none) :
    exec .fenc s = .next (succeeded
      { s with
        mem := cellWriteSeq s.mem 0x2000 (builtFrame s.regs.fdst s.regs.fsrc s)
        regs := { s.regs with txLen := BitVec.ofNat 16 (builtFrame s.regs.fdst s.regs.fsrc s).length } }) := by
  rw [exec_idle rfl hb, commandOp, opFenc_builds (s := acceptCommand s) h]
  rfl

/-- A byte at a position of a list is read back at that position of where the list is written. -/
theorem cellRead_cellWriteSeq_of_getElem? {w a i : Nat} {m : List (Nat × BitVec w)} {v : BitVec w}
    {vs : List (BitVec w)} (hm : cellsWf m = true) (h : vs[i]? = some v) :
    cellRead (cellWriteSeq m a vs) (a + i) = v := by
  obtain ⟨hi, hv⟩ := List.getElem?_eq_some_iff.mp h
  rw [cellRead_cellWriteSeq_inside hm vs hi, hv]

theorem cellReadSeq_getElem? {w a n i : Nat} {m : List (Nat × BitVec w)} (h : i < n) :
    (cellReadSeq m a n)[i]? = some (cellRead m (a + i)) := by
  rw [List.getElem?_eq_getElem (by rwa [cellReadSeq_length]), cellReadSeq_getElem]

/-- The frame Build writes is in TXBUF field by field (R101, R183). -/
theorem holdsFrame_builtFrame (hm : Memory.wf s.mem = true) (dst src : Byte) :
    holdsFrame (cellWriteSeq s.mem 0x2000 (builtFrame dst src s)) dst src s := by
  have hopc : (opcodeBytes s).length = s.regs.opcLen.toNat := cellReadSeq_length _ _ _
  have hpay : (payloadBytes s).length = s.regs.payLen.toNat := cellReadSeq_length _ _ _
  have hcell {i : Nat} {b : Byte} (h : (builtFrame dst src s)[i]? = some b) :
      cellRead (cellWriteSeq s.mem 0x2000 (builtFrame dst src s)) (0x2000 + i) = b :=
    cellRead_cellWriteSeq_of_getElem? hm h
  refine ⟨fun j hj => hcell (frameEncode_getElem?_wake (by omega)), hcell (frameEncode_getElem?_wake (by omega)),
    hcell (frameEncode_getElem?_wake (by omega)), hcell frameEncode_getElem?_dst, hcell frameEncode_getElem?_src,
    fun j hj => hcell ?opcode, fun j hj => hcell ?payload, hcell ?terminator⟩
  case opcode => exact (frameEncode_getElem?_opcode (hopc ▸ hj)).trans (cellReadSeq_getElem? hj)
  case payload =>
    rw [← hopc]
    exact (frameEncode_getElem?_payload (hpay ▸ hj)).trans (cellReadSeq_getElem? hj)
  case terminator =>
    rw [← hopc, ← hpay]
    exact frameEncode_getElem?_terminator

/-! ### FDEC (R185, R186) -/

theorem opFdec_overlong (h : s.params.rxMax < s.regs.rxLen.toNat) :
    opFdec s = raiseFailure .invalidArgument 0x0A#8 s :=
  if_pos h

theorem opFdec_short (hmax : s.regs.rxLen.toNat ≤ s.params.rxMax) (h : s.regs.rxLen.toNat ≤ 2) :
    opFdec s = raiseFailure .invalidArgument 0x08#8 s := by
  rw [opFdec, if_neg (Nat.not_lt.mpr hmax), if_pos h]

theorem opFdec_exposes (hmax : s.regs.rxLen.toNat ≤ s.params.rxMax) (h : 3 ≤ s.regs.rxLen.toNat) :
    opFdec s = completeOk (setFields (candidate s) s) := by
  rw [opFdec, if_neg (Nat.not_lt.mpr hmax), if_neg (Nat.not_le.mpr h)]

/-- FDEC of a candidate with a destination byte, from the fields of the candidate in the accepted state. -/
theorem exec_fdec_exposes (hb : s.flags.busy = false) (hmax : s.regs.rxLen.toNat ≤ s.params.rxMax)
    (h : 3 ≤ s.regs.rxLen.toNat) :
    exec .fdec s = .next (completeOk (setFields (candidate s) (acceptCommand s))) := by
  rw [exec_idle rfl hb, commandOp, opFdec_exposes (s := acceptCommand s) hmax h]
  rfl

/-! ### An encoded frame read back (R190) -/

/-- A byte at a position inside a list is what a read there with a default gives. -/
theorem getD_of_getElem? {α : Type} {l : List α} {i : Nat} {a d : α} (h : l[i]? = some a) : l.getD i d = a := by
  rw [List.getD_eq_getElem?_getD, h, Option.getD_some]

/-- A frame with no C_TERM among its addresses and data bytes is a candidate as a read delivers it. -/
theorem terminated_frameEncode (h : (0xFD#8 : Byte) ∉ dst :: src :: (opc ++ pay))
    (hlen : p + opc.length + pay.length + 5 ≤ s.params.rxMax) : terminated s (frameEncode dst src opc pay p) := by
  refine ⟨List.replicate (p + 2) 0xFE#8 ++ dst :: src :: (opc ++ pay), ?_, ?_, by rwa [frameEncode_length]⟩
  · simp [frameEncode_eq]
  · rw [List.mem_append, List.mem_replicate]
    rintro (⟨-, hwake⟩ | hrest)
    · exact absurd hwake (by decide)
    · exact h hrest

/-- The candidate a read leaves is the one the Transport held. -/
theorem run_read_candidate {pins : TransportPins} {c queue : List Byte} {rest : List Turn} (hf : s.seq.fsm = .read)
    (hempty : s.regs.rxLen = 0#16) (hp : s.params.wf = true) (hm : Memory.wf s.mem = true) (hc : terminated s c)
    (ho : offering pins) (hq : s.env.rxQueue = c ++ queue) (hs : s.env.schedule = edges c.length pins ++ rest) :
    ∃ t, Host.Core.run Sys2Proof.core c.length s = .next t ∧ t.seq.fsm = .classify ∧ candidate t = c := by
  obtain ⟨m, w, hrun, hread, -⟩ := aReadDeliversTheCandidate s pins c queue rest hf hempty hp hm hc ho hq hs
  obtain ⟨-, -, -, hroom⟩ := hc
  obtain ⟨-, -, hmax, -⟩ := params_bounds hp
  have hlen : (BitVec.ofNat 16 c.length).toNat = c.length := Nat.mod_eq_of_lt (by omega)
  refine ⟨_, hrun, rfl, ?_⟩
  simp only [candidate, hlen]
  exact hread

/-- The last data byte of a frame stands before its terminator. -/
theorem frameEncode_getElem?_status (h : 1 ≤ opc.length) :
    (frameEncode dst src opc pay p)[(frameEncode dst src opc pay p).length - 2]? = (opc ++ pay).getLast? := by
  have hlen : (opc ++ pay).length = opc.length + pay.length := List.length_append
  rw [frameEncode_length, show p + opc.length + pay.length + 5 - 2 = p + 4 + ((opc ++ pay).length - 1) by omega,
    frameEncode_getElem?_data (by omega), List.getLast?_eq_getElem?]

/-- The reply fields of an encoded frame, which has a source byte whatever its fields (R187). -/
theorem setFields_frameEncode (dst src : Byte) (opc pay : List Byte) (p : Nat) (s : State) :
    let c := frameEncode dst src opc pay p
    (setFields c s).regs.rplDst = c.getD 2 0#8 ∧ (setFields c s).regs.rplSrc = c.getD 3 0#8 ∧
      (setFields c s).flags.rplSrcOk = true ∧ (setFields c s).regs.rplSt = c.getD (c.length - 2) 0#8 := by
  intro c
  obtain ⟨w, hfields⟩ := setFields_source (s := s) (c := c) (by rw [frameEncode_length]; omega)
  rw [hfields]
  exact ⟨rfl, rfl, rfl, rfl⟩

/-! ### The statements -/

/-- Settles O29: the rows of the wake table. -/
theorem prelutLooksUpTheLinkSpeed : Obligations.PrelutLooksUpTheLinkSpeed := by
  unfold Obligations.PrelutLooksUpTheLinkSpeed
  intro s hb
  have hop : commandOp .prelut (acceptCommand s) =
      completeOk (setRes8 (wakeLookup Config.wakeTable s.env.tpBaud.toNat) (acceptCommand s)) := rfl
  rw [wakeLookup_wakeTable] at hop
  exact exec_delivers rfl hb hop

/-- Settles O30: the frame FENC writes by its byte positions, and the two length checks. -/
theorem fencBuildsTheFrame : Obligations.FencBuildsTheFrame := by
  unfold Obligations.FencBuildsTheFrame
  intro s hb hp
  refine ⟨fun hm hlengths => ?_, fun hopcode => ?_, fun h1 h4 hpayload => ?_⟩
  · have hfault : lengthFault s = none := lengthFault_none.mpr hlengths
    have hlen : (builtFrame s.regs.fdst s.regs.fsrc s).length = frameLength s := builtFrame_length _ _ s
    obtain ⟨-, hle, -⟩ := builtFrame_bounds s.regs.fdst s.regs.fsrc hp hfault
    rw [← hlen]
    exact ⟨_, _, exec_fenc_builds hb hfault, hle, holdsFrame_builtFrame hm _ _,
      fun a ha => cellRead_cellWriteSeq_outside _ _ ha⟩
  · exact exec_fails (k := .invalidOpcode) rfl hb (opFenc_fails (lengthFault_opcode hopcode))
  · exact exec_fails (k := .invalidArgument) rfl hb
      (opFenc_fails (s := acceptCommand s) (lengthFault_payload h1 h4 hpayload))

/-- Settles O31: FDEC's two checks in order, then the fields with and without a source byte. -/
theorem fdecExposesTheFields : Obligations.FdecExposesTheFields := by
  unfold Obligations.FdecExposesTheFields
  intro s hb
  have hlen : (candidate s).length = s.regs.rxLen.toNat := candidate_length s
  refine ⟨fun hover => ?_, fun hmax hshort => ?_, fun hmax h3 => ?_, fun hmax h4 => ?_⟩
  · exact exec_fails (k := .invalidArgument) rfl hb (opFdec_overlong (s := acceptCommand s) hover)
  · exact exec_fails (k := .invalidArgument) rfl hb (opFdec_short (s := acceptCommand s) hmax hshort)
  · obtain ⟨w, hfields⟩ := setFields_noSource (s := acceptCommand s) (hlen.trans h3)
    rw [exec_fdec_exposes hb hmax h3.ge, hfields, candidate_getD (by omega), candidate_getD (by omega)]
    exact ⟨w, rfl⟩
  · obtain ⟨w, hfields⟩ := setFields_source (s := acceptCommand s) (hlen ▸ h4)
    rw [exec_fdec_exposes hb hmax (by omega), hfields, hlen, candidate_getD (by omega), candidate_getD (by omega),
      candidate_getD (by omega)]
    exact ⟨w, rfl⟩

/-- Settles O49: the frame is the candidate the read delivers, and its fields stand where Fields looks for them; a
preamble of two or more puts wake bytes there. -/
theorem encodedFramesReadBack : Obligations.EncodedFramesReadBack := by
  unfold Obligations.EncodedFramesReadBack
  constructor
  · intro s dst src opc pay p queue rest hf hempty hp hm h1 h4 hpay hterm ho c hq hs
    obtain ⟨-, hroom, -⟩ := params_bounds hp
    have hc : terminated s c := terminated_frameEncode hterm (by omega)
    obtain ⟨t, hrun, hfsm, hcand⟩ := run_read_candidate hf hempty hp hm hc ho hq hs
    obtain ⟨hdst, hsrc, hok, hst⟩ := setFields_frameEncode dst src opc pay 0 t
    refine ⟨t, hrun, hfsm, hcand, ?_⟩
    rw [hcand]
    refine ⟨hdst.trans (getD_of_getElem? frameEncode_getElem?_dst),
      hsrc.trans (getD_of_getElem? (frameEncode_getElem?_src (p := 0))), hok, hst.trans ?_⟩
    rw [List.getD_eq_getElem?_getD, frameEncode_getElem?_status h1, List.getLastD_eq_getLast?]
  · intro s dst src opc pay n hn
    obtain ⟨hdst, hsrc, -, -⟩ := setFields_frameEncode dst src opc pay n s
    exact ⟨hdst.trans (getD_of_getElem? (frameEncode_getElem?_wake (by omega))),
      hsrc.trans (getD_of_getElem? (frameEncode_getElem?_wake (by omega)))⟩

end Sys2Proof.Machine
end

section
/-! SUPPORT. The exchange engine's other transitions as whole next states: XCHG out of IDLE, and one rule for each row
of CLASSIFY, by what the candidate is. -/

namespace Sys2Proof.Machine

open Sys2Proof Sys2Proof.Safety Sys2Proof.Claims

variable {s : State} {p : TransportPins} {rest : List Turn}

/-! ### XCHG at the CMD write (R201 to R203) -/

theorem opXchg_noSession (hv : s.flags.svalid = false) : opXchg s = raiseFailure .invalidArgument 0x02#8 s := by
  simp [opXchg, hv]

theorem opXchg_fails {k : FailureKind} {info : Byte} (hv : s.flags.svalid = true)
    (h : lengthFault s = some (k, info)) : opXchg s = raiseFailure k info s := by
  simp only [opXchg, hv, h, if_true]

theorem opXchg_starts (hv : s.flags.svalid = true) (h : lengthFault s = none) : opXchg s = startWrite s := by
  simp only [opXchg, hv, h, if_true]
  rfl

/-- XCHG with its checks passed, from the state before its acceptance. -/
theorem exec_xchg_starts (hb : s.flags.busy = false) (hv : s.flags.svalid = true) (h : lengthFault s = none) :
    exec .xchg s = .next (startWrite (acceptCommand s)) := by
  rw [exec_idle rfl hb, commandOp, opXchg_starts (s := acceptCommand s) hv h]

/-! ### The class of a candidate (R222) -/

theorem candidateClass_echo (h : candidate s = txFrame s) : candidateClass s = .echo :=
  if_pos h

theorem candidateClass_short (hecho : candidate s ≠ txFrame s) (h : s.regs.rxLen.toNat ≤ 2) :
    candidateClass s = .silence := by
  rw [← candidate_length] at h
  rw [candidateClass, classOf, if_neg hecho, if_pos h]

theorem candidateClass_noSource (hecho : candidate s ≠ txFrame s) (h : s.regs.rxLen.toNat = 3) :
    candidateClass s = .noSource := by
  rw [← candidate_length] at h
  rw [candidateClass, classOf, if_neg hecho, if_neg (by omega), if_pos h]

theorem candidateClass_foreign (hecho : candidate s ≠ txFrame s) (h : 4 ≤ s.regs.rxLen.toNat)
    (haddr : (candidate s).getD 2 0#8 ≠ s.session.ctrl ∨ (candidate s).getD 3 0#8 ≠ s.session.xcvr) :
    candidateClass s = .foreign := by
  rw [← candidate_length] at h
  rw [candidateClass, classOf, if_neg hecho, if_neg (by omega), if_neg (by omega), if_pos haddr]

/-- A candidate from the transceiver to the controller is one of the two replies, by its status byte. -/
theorem candidateClass_matching (hecho : candidate s ≠ txFrame s) (h : 4 ≤ s.regs.rxLen.toNat)
    (hctrl : (candidate s).getD 2 0#8 = s.session.ctrl) (hxcvr : (candidate s).getD 3 0#8 = s.session.xcvr) :
    candidateClass s =
      if (candidate s).getD (s.regs.rxLen.toNat - 2) 0#8 = 0xFA#8 then .negative else .valid := by
  rw [← candidate_length] at h ⊢
  rw [candidateClass, classOf, if_neg hecho, if_neg (by omega), if_neg (by omega), if_neg (by rw [hctrl, hxcvr]; simp)]
  rfl

/-! ### The rows of CLASSIFY (R207 to R217) -/

theorem candidate_withSchedule : candidate (s.withSchedule rest) = candidate s := rfl

/-- CLASSIFY takes its one step whatever the Transport presents (R221). -/
theorem step_classify (hf : s.seq.fsm = .classify) (h : nextTurn s.env = (.edge p, rest)) :
    step s = .next (classify (s.withSchedule rest)) :=
  step_event h (edgeEvent_classify hf) nofun

theorem classify_echo (h : candidate s = txFrame s) (hg : s.seq.attempts.toNat < s.session.maxAtt.toNat) :
    classify s = startRead s := by
  simp only [classify, candidateClass_echo h, loopGuard_read hg]

/-- No candidate of at most 2 bytes is an echo, for no frame is so short (R211). -/
theorem classify_short (hframe : 6 ≤ s.regs.txLen.toNat) (h : s.regs.rxLen.toNat ≤ 2) :
    classify s = loopGuard { s with seq := { s.seq with attempts := s.seq.attempts + 1#8 } } := by
  have hecho : candidate s ≠ txFrame s := fun he => by
    have hlen := congrArg List.length he
    rw [candidate_length, txFrame_length] at hlen
    omega
  simp only [classify, candidateClass_short hecho h]

/-- The two rows of foreign traffic do the same, each with the fields its candidate has (R213, R214). -/
theorem classify_foreign (hecho : candidate s ≠ txFrame s) (h : 3 ≤ s.regs.rxLen.toNat)
    (hforeign : s.regs.rxLen.toNat = 3 ∨
      (candidate s).getD 2 0#8 ≠ s.session.ctrl ∨ (candidate s).getD 3 0#8 ≠ s.session.xcvr)
    (hg : s.seq.attempts.toNat < s.session.maxAtt.toNat) :
    classify s = startRead (setFields (candidate s) s) := by
  have hread : loopGuard (setFields (candidate s) s) = startRead (setFields (candidate s) s) :=
    loopGuard_read (by simpa using hg)
  by_cases h3 : s.regs.rxLen.toNat = 3
  · simp only [classify, candidateClass_noSource hecho h3, hread]
  · simp only [classify, candidateClass_foreign hecho (by omega) (hforeign.resolve_left h3), hread]

/-- A matching candidate whose status byte is NG, exposed in RPL_ST and in ERR_INFO (R215). -/
theorem classify_negative (hecho : candidate s ≠ txFrame s) (h : 4 ≤ s.regs.rxLen.toNat)
    (hctrl : (candidate s).getD 2 0#8 = s.session.ctrl) (hxcvr : (candidate s).getD 3 0#8 = s.session.xcvr)
    (hng : (candidate s).getD (s.regs.rxLen.toNat - 2) 0#8 = 0xFA#8) :
    classify s = raiseFailure .commandRejected 0xFA#8 (setFields (candidate s) s) := by
  have hclass := candidateClass_matching hecho h hctrl hxcvr
  rw [if_pos hng] at hclass
  obtain ⟨w, hfields⟩ := setFields_source (s := s) (c := candidate s) (by rwa [candidate_length])
  have hst : (setFields (candidate s) s).regs.rplSt = 0xFA#8 := by rw [hfields, candidate_length]; exact hng
  simp only [classify, hclass, hst]

/-- Any other matching candidate is the Reply (R216). -/
theorem classify_valid (hecho : candidate s ≠ txFrame s) (h : 4 ≤ s.regs.rxLen.toNat)
    (hctrl : (candidate s).getD 2 0#8 = s.session.ctrl) (hxcvr : (candidate s).getD 3 0#8 = s.session.xcvr)
    (hok : (candidate s).getD (s.regs.rxLen.toNat - 2) 0#8 ≠ 0xFA#8) :
    classify s = completeOk (setFields (candidate s) s) := by
  have hclass := candidateClass_matching hecho h hctrl hxcvr
  rw [if_neg hok] at hclass
  simp only [classify, hclass]

/-! ### The statements -/

/-- Settles O32: XCHG's three checks, in their order. -/
theorem xchgChecksBeforeAnyIo : Obligations.XchgChecksBeforeAnyIo := by
  unfold Obligations.XchgChecksBeforeAnyIo
  intro s hb
  refine ⟨fun hv => ?_, fun hv hopcode => ?_, fun hv h1 h4 hpayload => ?_⟩
  · exact exec_fails (k := .invalidArgument) rfl hb (opXchg_noSession (s := acceptCommand s) hv)
  · exact exec_fails (k := .invalidOpcode) rfl hb
      (opXchg_fails (s := acceptCommand s) hv (lengthFault_opcode hopcode))
  · exact exec_fails (k := .invalidArgument) rfl hb
      (opXchg_fails (s := acceptCommand s) hv (lengthFault_payload h1 h4 hpayload))

/-- Settles O33: the start of the write, and the frame it builds by its byte positions. -/
theorem xchgBuildsAndStartsTheWrite : Obligations.XchgBuildsAndStartsTheWrite := by
  unfold Obligations.XchgBuildsAndStartsTheWrite
  intro s hb hp hm hv hlengths
  have hfault : lengthFault s = none := lengthFault_none.mpr hlengths
  have hlen : (builtFrame s.session.xcvr s.session.ctrl s).length = frameLength s := builtFrame_length _ _ s
  obtain ⟨-, hle, -⟩ := builtFrame_bounds s.session.xcvr s.session.ctrl hp hfault
  rw [← hlen]
  exact ⟨_, exec_xchg_starts hb hv hfault, hle, holdsFrame_builtFrame hm _ _,
    fun a ha => cellRead_cellWriteSeq_outside _ _ ha⟩

/-- Settles O40. -/
theorem echoesAreDiscardedFree : Obligations.EchoesAreDiscardedFree := by
  unfold Obligations.EchoesAreDiscardedFree
  intro s p rest hf h hg hecho
  rw [step_classify hf h, classify_echo (s := s.withSchedule rest) hecho hg]
  rfl

/-- Settles O41: the loop guard after the attempt is counted. -/
theorem silenceConsumesAnAttempt : Obligations.SilenceConsumesAnAttempt := by
  unfold Obligations.SilenceConsumesAnAttempt
  intro s p rest hf h hframe hshort
  have hwidth := s.session.maxAtt.isLt
  rw [step_classify hf h, classify_short (s := s.withSchedule rest) hframe hshort]
  refine ⟨fun hmore => ?_, fun hlast => ?_⟩
  · have hcount : (s.seq.attempts + 1#8).toNat = s.seq.attempts.toNat + 1 :=
      BitVec.toNat_add_of_lt (by simp only [BitVec.toNat_ofNat]; omega)
    rw [loopGuard_read (hcount.trans_lt hmore)]
    rfl
  · have hcount : s.seq.attempts + 1#8 = s.session.maxAtt := by
      rw [add_one_eq_ofNat, hlast, BitVec.ofNat_toNat, BitVec.setWidth_eq]
    simp only [withSchedule_seq, hcount]
    rw [loopGuard_timeout (by exact le_rfl)]
    rfl

/-- Settles O42: the two rows of foreign traffic, with the fields a candidate of each length has. -/
theorem foreignTrafficIsDiscardedFree : Obligations.ForeignTrafficIsDiscardedFree := by
  unfold Obligations.ForeignTrafficIsDiscardedFree
  intro s p rest hf h hg hecho
  have hlen : (candidate s).length = s.regs.rxLen.toNat := candidate_length s
  rw [step_classify hf h]
  refine ⟨fun h3 => ?_, fun h4 haddr => ?_⟩
  · rw [classify_foreign (s := s.withSchedule rest) hecho h3.ge (.inl h3) hg]
    obtain ⟨w, hfields⟩ := setFields_noSource (s := s.withSchedule rest) (hlen.trans h3)
    refine ⟨w, ?_⟩
    rw [candidate_withSchedule, hfields, candidate_getD (by omega),
      candidate_getD (by omega)]
    rfl
  · rw [← candidate_getD (i := 2) (by omega), ← candidate_getD (i := 3) (by omega)] at haddr ⊢
    rw [classify_foreign (s := s.withSchedule rest) hecho (Nat.le_of_lt h4) (.inr haddr) hg]
    obtain ⟨w, hfields⟩ := setFields_source (s := s.withSchedule rest) (hlen ▸ h4)
    refine ⟨w, ?_⟩
    rw [candidate_withSchedule, hfields, hlen, ← candidate_getD (by omega)]
    rfl

/-- Settles O43: the two rows of a matching candidate, whose address fields are the Session's. -/
theorem matchingRepliesEndTheExchange : Obligations.MatchingRepliesEndTheExchange := by
  unfold Obligations.MatchingRepliesEndTheExchange
  intro s p rest hf h hecho h4 hctrl hxcvr
  have hlen : (candidate s).length = s.regs.rxLen.toNat := candidate_length s
  rw [← candidate_getD (i := 2) (by omega)] at hctrl
  rw [← candidate_getD (i := 3) (by omega)] at hxcvr
  obtain ⟨w, hfields⟩ := setFields_source (s := s.withSchedule rest) (hlen ▸ h4)
  rw [hctrl, hxcvr, hlen] at hfields
  rw [step_classify hf h, ← candidate_getD (by omega)]
  refine ⟨w, fun hng => ?_, fun hok => ?_⟩
  · rw [classify_negative (s := s.withSchedule rest) hecho h4 hctrl hxcvr hng, candidate_withSchedule, hfields]
    rfl
  · rw [classify_valid (s := s.withSchedule rest) hecho h4 hctrl hxcvr hok, candidate_withSchedule, hfields]
    rfl

end Sys2Proof.Machine
end

section
/-! SUPPORT. Reads that end in silence, one after the other: each counts an attempt, and the last one ends the
exchange. -/

namespace Sys2Proof.Machine

open Sys2Proof Sys2Proof.Claims

variable {s : State} {p q : TransportPins} {rest : List Turn}

/-- The turns of some silent reads and of some more. -/
theorem silentReads_add (j k : Nat) (p q : TransportPins) :
    silentReads (j + k) p q = silentReads j p q ++ silentReads k p q := by
  induction j with
  | zero => simp [silentReads]
  | succ j ih => simp [silentReads, Nat.add_right_comm j 1 k, ih]

/-- A new read after `j` silent ones: ATTEMPTS has grown by `j`, and nothing else of the block has changed. -/
def afterSilences (j : Nat) (rest : List Turn) (s : State) : State :=
  { s.withSchedule rest with seq := { s.seq with attempts := s.seq.attempts + BitVec.ofNat 8 j } }

theorem afterSilences_attempts {j : Nat} (h : s.seq.attempts.toNat + j < 2 ^ 8) :
    (afterSilences j rest s).seq.attempts.toNat = s.seq.attempts.toNat + j := by
  have hj : (BitVec.ofNat 8 j).toNat = j := Nat.mod_eq_of_lt (by omega)
  rw [afterSilences, BitVec.toNat_add_of_lt (by rwa [hj]), hj]

/-- Silent reads after silent reads are as many as both together. -/
theorem afterSilences_afterSilences (j k : Nat) (rest rest' : List Turn) (s : State) :
    afterSilences k rest (afterSilences j rest' s) = afterSilences (j + k) rest s := by
  simp [afterSilences, State.withSchedule, State.withEnv, BitVec.ofNat_add, BitVec.add_assoc]

/-- A read that times out with nothing received goes to classification with an empty candidate (R74). -/
def timedOut (rest : List Turn) (s : State) : State :=
  { s.withSchedule rest with seq := { s.seq with fsm := .classify } }

theorem step_timedOut (hf : s.seq.fsm = .read) (ht : timingOut p) (h : nextTurn s.env = (.edge p, rest)) :
    step s = .next (timedOut rest s) :=
  (readsEndOtherwise s p rest hf h).1 ht

/-- A silent read with budget left behind it (R205, R212). -/
theorem run_silentRead (hf : s.seq.fsm = .read) (hempty : s.regs.rxLen = 0#16) (hframe : 6 ≤ s.regs.txLen.toNat)
    (ht : timingOut p) (hmore : s.seq.attempts.toNat + 1 < s.session.maxAtt.toNat)
    (hs : s.env.schedule = .edge p :: .edge q :: rest) :
    Host.Core.run Sys2Proof.core 2 s = .next (afterSilences 1 rest s) := by
  have hshort : s.regs.rxLen.toNat ≤ 2 := by rw [hempty]; decide
  obtain ⟨hcount, -⟩ := silenceConsumesAnAttempt (timedOut (.edge q :: rest) s) q rest rfl
    (nextTurn_schedule rfl) hframe hshort
  rw [run_succ (step_timedOut hf ht (nextTurn_schedule hs)), run_succ (hcount hmore), run_zero]
  simp only [afterSilences, timedOut, ← hf, ← hempty]
  rfl

/-- The silent read that uses the last attempt (R217). -/
theorem run_lastSilentRead (hf : s.seq.fsm = .read) (hempty : s.regs.rxLen = 0#16)
    (hframe : 6 ≤ s.regs.txLen.toNat) (ht : timingOut p)
    (hlast : s.seq.attempts.toNat + 1 = s.session.maxAtt.toNat)
    (hs : s.env.schedule = .edge p :: .edge q :: rest) :
    Host.Core.run Sys2Proof.core 2 s = .next
      (failed 7#4 s.session.maxAtt
        { s.withSchedule rest with seq := { s.seq with attempts := s.session.maxAtt } }) := by
  have hshort : s.regs.rxLen.toNat ≤ 2 := by rw [hempty]; decide
  obtain ⟨-, hend⟩ := silenceConsumesAnAttempt (timedOut (.edge q :: rest) s) q rest rfl
    (nextTurn_schedule rfl) hframe hshort
  rw [run_succ (step_timedOut hf ht (nextTurn_schedule hs)), run_succ (hend hlast), run_zero]
  rfl

/-- Silent reads that leave budget behind them, by induction on how many. -/
theorem run_silentReads {j : Nat} (hf : s.seq.fsm = .read) (hempty : s.regs.rxLen = 0#16)
    (hframe : 6 ≤ s.regs.txLen.toNat) (ht : timingOut p)
    (hmore : s.seq.attempts.toNat + j < s.session.maxAtt.toNat)
    (hs : s.env.schedule = silentReads j p q ++ rest) :
    Host.Core.run Sys2Proof.core (2 * j) s = .next (afterSilences j rest s) := by
  have hwidth := s.session.maxAtt.isLt
  induction j generalizing rest with
  | zero =>
    rw [Nat.mul_zero, run_zero]
    simp only [afterSilences, BitVec.add_zero, show rest = s.env.schedule from hs.symm]
    rfl
  | succ j ih =>
    have hbefore := ih (by omega) (rest := .edge p :: .edge q :: rest)
      (by rw [hs, silentReads_add]; simp [silentReads])
    have hattempts := afterSilences_attempts (rest := .edge p :: .edge q :: rest)
      (show s.seq.attempts.toNat + j < 2 ^ 8 by omega)
    have hround := run_silentRead (s := afterSilences j (.edge p :: .edge q :: rest) s) hf hempty hframe ht
      (by rw [hattempts]; exact hmore) rfl
    rw [Nat.mul_succ, run_add hbefore, hround, afterSilences_afterSilences]

/-- Settles O46: the silent reads before the last one leave XCHG at a new read, and the last one ends it. -/
theorem silenceExhaustsTheBudget : Obligations.SilenceExhaustsTheBudget := by
  unfold Obligations.SilenceExhaustsTheBudget
  intro s p q rest hf hempty hframe hbudget ht hs
  have hwidth := s.session.maxAtt.isLt
  obtain ⟨n, hn⟩ := Nat.exists_eq_add_of_lt hbudget
  rw [show s.session.maxAtt.toNat - s.seq.attempts.toNat = n + 1 by omega] at hs ⊢
  have hbefore : ∀ j ≤ n, Host.Core.run Sys2Proof.core (2 * j) s =
      .next (afterSilences j (silentReads (n + 1 - j) p q ++ rest) s) := fun j hj => by
    refine run_silentReads (q := q) hf hempty hframe ht (by omega) ?_
    rw [← List.append_assoc, ← silentReads_add, Nat.add_sub_cancel' (by omega), hs]
  have hattempts : ∀ j ≤ n, ∀ rest, (afterSilences j rest s).seq.attempts.toNat = s.seq.attempts.toNat + j :=
    fun j hj rest => afterSilences_attempts (by omega)
  refine ⟨?_, fun j hj => ⟨_, hbefore j (by omega), hf, hattempts j (by omega) _, rfl⟩⟩
  have hend := run_lastSilentRead (s := afterSilences n (silentReads (n + 1 - n) p q ++ rest) s) (q := q)
    (rest := rest) hf hempty hframe ht ((congrArg (· + 1) (hattempts n le_rfl _)).trans hn.symm)
    (by rw [Nat.add_sub_cancel_left]; rfl)
  rw [Nat.mul_succ, run_add (hbefore n le_rfl), hend]
  rfl

end Sys2Proof.Machine
end

section
/-! SUPPORT. The read loop over candidates: what a new read of an exchange is and what the loop keeps of it, one
candidate received and dropped for free, and from it any number of them, finite or without end. -/

namespace Sys2Proof.Machine

open Sys2Proof Sys2Proof.Claims

variable {s t u : State} {p : TransportPins} {c queue bytes : List Byte} {rest : List Turn} {k m n : Nat}

/-! ### What the loop keeps -/

/-- A read about to take its first byte, with budget for it (R205, R206). -/
structure NewRead (s : State) : Prop where
  fsm : s.seq.fsm = .read
  empty : s.regs.rxLen = 0#16
  busy : s.flags.busy = true
  params : s.params.wf = true
  mem : Memory.wf s.mem = true
  budget : s.seq.attempts.toNat < s.session.maxAtt.toNat
  txLen : s.regs.txLen.toNat ≤ s.params.txMax

/-- What a turn of the loop that costs nothing keeps of the exchange: where it is in its budget, the Session, the
frame, and what has been sent; of the engine's place it says nothing. -/
structure SameExchange (s t : State) : Prop where
  params : t.params = s.params
  attempts : t.seq.attempts = s.seq.attempts
  txIdx : t.seq.txIdx = s.seq.txIdx
  session : t.session = s.session
  busy : t.flags.busy = s.flags.busy
  done : t.flags.done = s.flags.done
  txLen : t.regs.txLen = s.regs.txLen
  frame : txFrame t = txFrame s
  wireOut : t.env.wireOut = s.env.wireOut
  cycle : t.env.cycle = s.env.cycle

theorem SameExchange.refl (s : State) : SameExchange s s :=
  ⟨rfl, rfl, rfl, rfl, rfl, rfl, rfl, rfl, rfl, rfl⟩

theorem SameExchange.trans (h : SameExchange s t) (h' : SameExchange t u) : SameExchange s u where
  params := h'.params.trans h.params
  attempts := h'.attempts.trans h.attempts
  txIdx := h'.txIdx.trans h.txIdx
  session := h'.session.trans h.session
  busy := h'.busy.trans h.busy
  done := h'.done.trans h.done
  txLen := h'.txLen.trans h.txLen
  frame := h'.frame.trans h.frame
  wireOut := h'.wireOut.trans h.wireOut
  cycle := h'.cycle.trans h.cycle

theorem sameExchange_withSchedule (s : State) (rest : List Turn) : SameExchange s (s.withSchedule rest) :=
  ⟨rfl, rfl, rfl, rfl, rfl, rfl, rfl, rfl, rfl, rfl⟩

theorem sameExchange_startRead (s : State) : SameExchange s (startRead s) :=
  ⟨rfl, rfl, rfl, rfl, rfl, rfl, rfl, rfl, rfl, rfl⟩

theorem sameExchange_setFields (c : List Byte) (s : State) : SameExchange s (setFields c s) := by
  constructor <;> simp [txFrame]

theorem NewRead.of_same (h : NewRead s) (hst : SameExchange s t) (hf : t.seq.fsm = .read)
    (hempty : t.regs.rxLen = 0#16) (hm : Memory.wf t.mem = true) : NewRead t where
  fsm := hf
  empty := hempty
  busy := hst.busy.trans h.busy
  params := hst.params ▸ h.params
  mem := hm
  budget := by rw [hst.attempts, hst.session]; exact h.budget
  txLen := by rw [hst.txLen, hst.params]; exact h.txLen

/-- Two new reads of one exchange are at one sequencing state. -/
theorem NewRead.seq_eq (h : NewRead s) (ht : NewRead t) (hst : SameExchange s t) : t.seq = s.seq :=
  calc t.seq = ⟨t.seq.fsm, t.seq.attempts, t.seq.txIdx⟩ := rfl
    _ = ⟨s.seq.fsm, s.seq.attempts, s.seq.txIdx⟩ := by rw [ht.fsm, h.fsm, hst.attempts, hst.txIdx]

/-- What XCHG drops for free is so throughout the exchange. -/
theorem SameExchange.dropped (h : SameExchange s t) (hc : terminated s c ∧ freeDiscard s c) :
    terminated t c ∧ freeDiscard t c := by
  simpa only [terminated, freeDiscard, h.params, h.frame, h.session] using hc

/-! ### Runs that come back to a new read -/

/-- An exchange under way, at the ATTEMPTS of `s`. -/
def Attempting (s u : State) : Prop := u.flags.busy = true ∧ u.seq.attempts = s.seq.attempts

/-- `n` steps from `s` come to a new read `t` of the same exchange, BUSY and ATTEMPTS as they were all the way. -/
structure LoopsBack (n : Nat) (s t : State) : Prop where
  run : Host.Core.run Sys2Proof.core n s = .next t
  same : SameExchange s t
  newRead : NewRead t
  within : ∀ k < n, ∃ u, Host.Core.run Sys2Proof.core k s = .next u ∧ Attempting s u

theorem LoopsBack.refl (h : NewRead s) : LoopsBack 0 s s :=
  ⟨rfl, .refl s, h, nofun⟩

theorem LoopsBack.trans (h : LoopsBack m s t) (h' : LoopsBack n t u) : LoopsBack (m + n) s u where
  run := (run_add h.run).trans h'.run
  same := h.same.trans h'.same
  newRead := h'.newRead
  within k hk := by
    by_cases hkm : k < m
    · exact h.within k hkm
    · obtain ⟨v, hrun, hbusy, hattempts⟩ := h'.within (k - m) (by omega)
      refine ⟨v, ?_, hbusy, hattempts.trans h.same.attempts⟩
      rw [← Nat.add_sub_cancel' (Nat.le_of_not_lt hkm), run_add h.run, hrun]

/-! ### One candidate received -/

theorem edges_add (m n : Nat) (p : TransportPins) : edges (m + n) p = edges m p ++ edges n p :=
  List.replicate_add m n _

/-- `u` stands at the classification of the candidate `c`, received by a new read of the exchange of `s`. -/
structure Received (c queue : List Byte) (rest : List Turn) (s u : State) : Prop where
  same : SameExchange s u
  fsm : u.seq.fsm = .classify
  candidate : candidate u = c
  mem : Memory.wf u.mem = true
  rxQueue : u.env.rxQueue = queue
  schedule : u.env.schedule = rest

/-- Bytes taken reach neither TXBUF nor what is below it (R61). -/
theorem txFrame_receiveBytes (hp : s.params.wf = true) (htx : s.regs.txLen.toNat ≤ s.params.txMax)
    (bytes queue : List Byte) (fsm : Fsm) (rest : List Turn) (w : List Nat) :
    txFrame (receiveBytes bytes fsm queue rest w s) = txFrame s := by
  obtain ⟨hpay, -⟩ := params_bounds hp
  have htxMax : s.params.txMax = s.params.payMax + 264 := rfl
  exact cellReadSeq_congr fun i hi =>
    cellRead_cellWriteSeq_outside _ _ (.inl (by simp only [baseTxbuf, receiveBytes] at *; omega))

/-- A new read offered a candidate receives it. -/
theorem NewRead.receive (h : NewRead s) (ho : offering p) (hc : terminated s c) (hq : s.env.rxQueue = c ++ queue)
    (hs : s.env.schedule = edges c.length p ++ rest) :
    ∃ u : State, Host.Core.run Sys2Proof.core c.length s = .next u ∧ Received c queue rest s u := by
  obtain ⟨body, rfl, hbody, hroom⟩ := hc
  have hzero : s.regs.rxLen.toNat = 0 := by rw [h.empty]; rfl
  obtain ⟨-, -, hmax, -⟩ := params_bounds h.params
  have hlen : (body ++ [0xFD#8]).length = body.length + 1 := List.length_append
  obtain ⟨w, hrun⟩ := run_read h.fsm ho hbody (by omega) hmax (by simpa using hq) (hlen ▸ hs)
  refine ⟨_, hlen ▸ hrun, ?_⟩
  have hrx : (BitVec.ofNat 16 (0 + (body ++ [0xFD#8]).length)).toNat = (body ++ [0xFD#8]).length := by
    rw [Nat.zero_add]; exact Nat.mod_eq_of_lt (by omega)
  constructor
  case same =>
    exact ⟨rfl, rfl, rfl, rfl, rfl, rfl, rfl, txFrame_receiveBytes h.params h.txLen _ _ _ _ _, rfl, rfl⟩
  case candidate =>
    simp only [Machine.candidate, receiveBytes, hzero, hrx]
    exact cellReadSeq_cellWriteSeq h.mem _ _
  case mem => exact cellsWf_cellWriteSeq h.mem _ _
  all_goals rfl

/-- At every byte before the last of a candidate the read goes on, the flags and the sequencing as they were; by
induction on how many bytes have been taken (R73). -/
theorem run_read_before_end (hf : s.seq.fsm = .read) (ho : offering p) (hbody : (0xFD#8 : Byte) ∉ bytes)
    (hroom : s.regs.rxLen.toNat + bytes.length ≤ s.params.rxMax) (hmax : s.params.rxMax ≤ 4096)
    (hk : k ≤ bytes.length) (hq : s.env.rxQueue = bytes ++ queue) (hs : s.env.schedule = edges k p ++ rest) :
    ∃ u, Host.Core.run Sys2Proof.core k s = .next u ∧ u.flags = s.flags ∧ u.seq = s.seq := by
  induction k generalizing s bytes with
  | zero => exact ⟨s, rfl, rfl, rfl⟩
  | succ k ih =>
    cases bytes with
    | nil => simp at hk
    | cons b bytes =>
      obtain ⟨hb, hbytes⟩ : b ≠ 0xFD#8 ∧ (0xFD#8 : Byte) ∉ bytes := by simpa [eq_comm] using hbody
      rw [List.length_cons] at hroom hk
      obtain ⟨w, hstep⟩ := step_receiveByte hf (nextTurn_edges hs) ho hq (by omega)
      rw [if_neg hb, ← hf] at hstep
      have hlen : (s.regs.rxLen.toNat + 1) % 2 ^ 16 = s.regs.rxLen.toNat + 1 := Nat.mod_eq_of_lt (by omega)
      obtain ⟨u, hrun, hflags, hseq⟩ :=
        ih (s := receiveBytes [b] s.seq.fsm (bytes ++ queue) (edges k p ++ rest) w s) hf hbytes
          (by simp only [receiveBytes, List.length_singleton, BitVec.toNat_ofNat, hlen]; omega) hmax (by omega) rfl rfl
      exact ⟨u, (run_succ hstep).trans hrun, hflags, hseq⟩

/-- A new read offered a candidate is the exchange it was until the candidate is whole. -/
theorem NewRead.receive_within (h : NewRead s) (ho : offering p) (hc : terminated s c)
    (hq : s.env.rxQueue = c ++ queue) (hs : s.env.schedule = edges c.length p ++ rest) (hk : k < c.length) :
    ∃ u, Host.Core.run Sys2Proof.core k s = .next u ∧ Attempting s u := by
  obtain ⟨body, rfl, hbody, hroom⟩ := hc
  have hzero : s.regs.rxLen.toNat = 0 := by rw [h.empty]; rfl
  obtain ⟨-, -, hmax, -⟩ := params_bounds h.params
  have hlen : (body ++ [0xFD#8]).length = body.length + 1 := List.length_append
  have hturns : s.env.schedule = edges k p ++ (edges (body.length + 1 - k) p ++ rest) := by
    rw [← List.append_assoc, ← edges_add, Nat.add_sub_cancel' (by omega), hs, hlen]
  obtain ⟨u, hrun, hflags, hseq⟩ := run_read_before_end (k := k) h.fsm ho hbody (by omega) hmax (by omega)
    (by rw [hq, List.append_assoc]) hturns
  exact ⟨u, hrun, by rw [hflags, h.busy], by rw [hseq]⟩

/-! ### One candidate dropped -/

/-- A classification that costs nothing begins a new read, after the fields of foreign traffic are set (R210, R213,
R214). -/
theorem classify_freeDiscard (hg : s.seq.attempts.toNat < s.session.maxAtt.toNat)
    (hc : freeDiscard s (candidate s)) :
    ∃ u, classify s = startRead u ∧ SameExchange s u ∧ u.mem = s.mem ∧ u.env = s.env := by
  by_cases hecho : candidate s = txFrame s
  · exact ⟨s, classify_echo hecho hg, .refl s, rfl, rfl⟩
  · obtain ⟨hlen, hforeign⟩ := hc.resolve_left hecho
    rw [candidate_length] at hlen hforeign
    exact ⟨_, classify_foreign hecho hlen hforeign hg, sameExchange_setFields _ s, setFields_mem s _,
      setFields_env s _⟩

/-- An echo or a foreign candidate, received and dropped (R220). -/
theorem NewRead.drop (h : NewRead s) (ho : offering p) (hc : terminated s c ∧ freeDiscard s c)
    (hq : s.env.rxQueue = c ++ queue) (hs : s.env.schedule = edges (c.length + 1) p ++ rest) :
    ∃ t, LoopsBack (c.length + 1) s t ∧ t.env.rxQueue = queue ∧ t.env.schedule = rest := by
  obtain ⟨hterm, hfree⟩ := hc
  have hturns : s.env.schedule = edges c.length p ++ (.edge p :: rest) := by
    rw [hs, edges_add, List.append_assoc]; rfl
  obtain ⟨u, hrun, hu⟩ := h.receive ho hterm hq hturns
  have hsame : SameExchange s (u.withSchedule rest) := hu.same.trans (sameExchange_withSchedule u rest)
  obtain ⟨v, hclassify, hv, hmem, henv⟩ := classify_freeDiscard (s := u.withSchedule rest)
    (by rw [hsame.attempts, hsame.session]; exact h.budget)
    (by rw [candidate_withSchedule, hu.candidate]; exact (hsame.dropped ⟨hterm, hfree⟩).2)
  have hstep := step_classify hu.fsm (nextTurn_schedule hu.schedule)
  rw [hclassify] at hstep
  have hback : SameExchange s (startRead v) := (hsame.trans hv).trans (sameExchange_startRead v)
  refine ⟨startRead v, ⟨?_, hback, h.of_same hback rfl rfl ?_, fun k hk => ?_⟩, ?_, ?_⟩
  · rw [run_add hrun, run_succ hstep, run_zero]
  · rw [startRead_mem, hmem]; exact hu.mem
  · by_cases hlast : k = c.length
    · exact ⟨u, hlast ▸ hrun, hu.same.busy.trans h.busy, hu.same.attempts⟩
    · exact h.receive_within ho hterm hq hturns (by omega)
  · rw [startRead_env, henv]; exact hu.rxQueue
  · rw [startRead_env, henv]; rfl

/-! ### Any number of candidates dropped -/

/-- Echoes and foreign candidates, one after the other. -/
theorem NewRead.dropAll {cs : List (List Byte)} (h : NewRead s) (ho : offering p)
    (hcs : ∀ c ∈ cs, terminated s c ∧ freeDiscard s c) (hq : s.env.rxQueue = cs.flatten ++ queue)
    (hs : s.env.schedule = receiveAll cs p ++ rest) :
    ∃ t, LoopsBack (receiveAll cs p).length s t ∧ t.env.rxQueue = queue ∧ t.env.schedule = rest := by
  induction cs generalizing s with
  | nil => exact ⟨s, .refl h, hq, hs⟩
  | cons c cs ih =>
    rw [List.flatten_cons, List.append_assoc] at hq
    rw [receiveAll, List.append_assoc] at hs
    obtain ⟨t, hst, htq, hts⟩ := h.drop ho (hcs c (by simp)) hq hs
    obtain ⟨u, htu, huq, hus⟩ :=
      ih hst.newRead (fun c hc => hst.same.dropped (hcs c (List.mem_cons_of_mem _ hc))) htq hts
    refine ⟨u, ?_, huq, hus⟩
    rw [receiveAll, List.length_append, edges, List.length_replicate]
    exact hst.trans htu

/-- Bytes that reach the Transport stand behind what it holds (R71). -/
theorem run_arrivals (hs : s.env.schedule = bytes.map .arrive ++ rest) :
    Host.Core.run Sys2Proof.core bytes.length s =
      .next ((s.withSchedule rest).withQueue (s.env.rxQueue ++ bytes)) := by
  induction bytes generalizing s with
  | nil =>
    simp only [List.append_nil, show rest = s.env.schedule from hs.symm]
    rfl
  | cons b bytes ih =>
    have hrest := ih (s := (s.withSchedule (bytes.map .arrive ++ rest)).withQueue (s.env.rxQueue ++ [b])) rfl
    have hturn : nextTurn s.env = (.arrive b, bytes.map .arrive ++ rest) := nextTurn_schedule hs
    rw [List.length_cons, run_succ (step_arrive hturn), hrest, withQueue_env_rxQueue,
      List.append_assoc]
    rfl

/-- Arrivals leave a new read where it is. -/
theorem NewRead.arrivals (h : NewRead s) (hs : s.env.schedule = bytes.map .arrive ++ rest) :
    LoopsBack bytes.length s ((s.withSchedule rest).withQueue (s.env.rxQueue ++ bytes)) where
  run := run_arrivals hs
  same := ⟨rfl, rfl, rfl, rfl, rfl, rfl, rfl, rfl, rfl, rfl⟩
  newRead := { h with }
  within k hk := by
    have hsplit : s.env.schedule = (bytes.take k).map .arrive ++ ((bytes.drop k).map .arrive ++ rest) := by
      rw [← List.append_assoc, ← List.map_append, List.take_append_drop, hs]
    have hrun := run_arrivals hsplit
    rw [List.length_take_of_le (Nat.le_of_lt hk)] at hrun
    exact ⟨_, hrun, h.busy, rfl⟩

/-! ### A supply without end (R220, R285) -/

/-- An empty schedule runs as the cycle taken up again (R220). -/
theorem run_cycle {turn : Turn} (h : s.env.schedule = []) (hc : s.env.cycle = turn :: rest) (hn : 0 < n) :
    Host.Core.run Sys2Proof.core n s = Host.Core.run Sys2Proof.core n (s.withSchedule s.env.cycle) := by
  have hstep : step s = step (s.withSchedule s.env.cycle) := by
    have hnext : nextTurn (s.withSchedule s.env.cycle).env = (turn, rest) := nextTurn_schedule hc
    simp only [step, fetch_of_nextTurn (nextTurn_cycle h hc), fetch_of_nextTurn hnext]
    rfl
  obtain ⟨m, rfl⟩ := Nat.exists_eq_add_of_lt hn
  simp only [Host.Core.run, show Sys2Proof.core.step s = Sys2Proof.core.step (s.withSchedule s.env.cycle) from hstep]

theorem supply_ne_nil {cs : List (List Byte)} (h : cs ≠ []) : supply cs p ≠ [] := by
  cases cs with
  | nil => exact absurd rfl h
  | cons c cs => simp [supply, receiveAll, edges]

/-- A new read between two rounds of an endless supply of echoes and foreign candidates, with nothing held. -/
structure Supplied (cs : List (List Byte)) (p : TransportPins) (s : State) : Prop where
  newRead : NewRead s
  rxQueue : s.env.rxQueue = []
  schedule : s.env.schedule = []
  cycle : s.env.cycle = supply cs p
  dropped : ∀ c ∈ cs, terminated s c ∧ freeDiscard s c

/-- One round of the supply. -/
theorem Supplied.round {cs : List (List Byte)} (h : Supplied cs p s) (ho : offering p) (hcs : cs ≠ []) :
    ∃ t, LoopsBack (supply cs p).length s t ∧ Supplied cs p t := by
  have hread : NewRead (s.withSchedule (supply cs p)) := { h.newRead with }
  have hfill := hread.arrivals (bytes := cs.flatten) (rest := receiveAll cs p) rfl
  obtain ⟨t, hdrop, hq, hsched⟩ := hfill.newRead.dropAll (queue := []) (rest := []) ho
    (fun c hc => hfill.same.dropped ((sameExchange_withSchedule s _).dropped (h.dropped c hc)))
    (by rw [withQueue_env_rxQueue, List.append_nil]; exact congrArg (· ++ cs.flatten) h.rxQueue)
    (List.append_nil _).symm
  have hround := hfill.trans hdrop
  rw [show cs.flatten.length + (receiveAll cs p).length = (supply cs p).length by
    rw [supply, List.length_append, List.length_map]] at hround
  have hsame : SameExchange s t := (sameExchange_withSchedule s _).trans hround.same
  obtain ⟨turn, rest, hsupply⟩ := List.exists_cons_of_ne_nil (supply_ne_nil (p := p) hcs)
  have hcycle (n : Nat) (hn : 0 < n) : Host.Core.run Sys2Proof.core n s =
      Host.Core.run Sys2Proof.core n (s.withSchedule (supply cs p)) := by
    rw [run_cycle h.schedule (h.cycle.trans hsupply) hn, h.cycle]
  refine ⟨t, ⟨?_, hsame, hround.newRead, fun k hk => ?_⟩, hround.newRead, hq, hsched, hsame.cycle.trans h.cycle,
    fun c hc => hsame.dropped (h.dropped c hc)⟩
  · rw [hcycle _ (List.length_pos_of_ne_nil (supply_ne_nil hcs)), hround.run]
  · rcases Nat.eq_zero_or_pos k with rfl | hpos
    · exact ⟨s, rfl, h.newRead.busy, rfl⟩
    · rw [hcycle k hpos]; exact hround.within k hk

/-- Any number of rounds of the supply. -/
theorem Supplied.rounds {cs : List (List Byte)} (h : Supplied cs p s) (ho : offering p) (hcs : cs ≠ []) (m : Nat) :
    ∃ t, LoopsBack (m * (supply cs p).length) s t ∧ Supplied cs p t := by
  induction m with
  | zero => exact ⟨s, by rw [Nat.zero_mul]; exact .refl h.newRead, h⟩
  | succ m ih =>
    obtain ⟨t, hst, ht⟩ := ih
    obtain ⟨u, htu, hu⟩ := ht.round ho hcs
    exact ⟨u, by rw [Nat.succ_mul]; exact hst.trans htu, hu⟩

/-- Settles O47: `NewRead.dropAll` for a finite supply; for an endless one every step is within some round. -/
theorem freeDiscardsNeverEndTheExchange : Obligations.FreeDiscardsNeverEndTheExchange := by
  unfold Obligations.FreeDiscardsNeverEndTheExchange
  intro s p cs hf hempty hb hp hm hbudget htx ho hcs
  have hread : NewRead s := ⟨hf, hempty, hb, hp, hm, hbudget, htx⟩
  refine ⟨fun queue rest hq hs => ?_, fun hne hq hs hcycle => ?_⟩
  · obtain ⟨t, hst, htq, hts⟩ := hread.dropAll ho hcs hq hs
    exact ⟨t, hst.run, hread.seq_eq hst.newRead hst.same, hst.newRead.busy, hst.same.done, hst.newRead.empty,
      hst.same.session, hst.same.frame, htq, hts, hst.same.wireOut⟩
  · have hsupplied : Supplied cs p s := ⟨hread, hq, hs, hcycle, hcs⟩
    refine ⟨fun k => ?_, fun m => ?_⟩
    · obtain ⟨t, hst, -⟩ := hsupplied.rounds ho hne (k + 1)
      have hpos : 0 < (supply cs p).length := List.length_pos_of_ne_nil (supply_ne_nil hne)
      exact hst.within k (Nat.le_mul_of_pos_right (k + 1) hpos)
    · obtain ⟨t, hst, ht⟩ := hsupplied.rounds ho hne m
      exact ⟨t, hst.run, hread.seq_eq hst.newRead hst.same, hst.newRead.empty, hst.same.frame, ht.rxQueue,
        ht.schedule⟩

end Sys2Proof.Machine
end

section
/-! SUPPORT. A whole exchange: the CMD write and the frame sent, then the echo dropped as any candidate is, then the
reply. -/

namespace Sys2Proof.Machine

open Sys2Proof Sys2Proof.Safety Sys2Proof.Claims

variable {s : State} {p : TransportPins} {c queue : List Byte} {rest : List Turn}

/-! ### The frame sent (R202 to R204) -/

/-- The CMD write of XCHG's word, its checks passed. -/
theorem step_xchg_starts (hb : s.flags.busy = false) (hv : s.flags.svalid = true) (hl : lengthFault s = none)
    (hs : s.env.schedule = .host (.write 0 0x0C#66) :: rest) :
    step s = .next (startWrite (acceptCommand (s.withSchedule rest))) := by
  have hdecode : decodeCommand ((0x0C#66).setWidth 8) = .ok .xchg := decode_encode .xchg
  rw [step_command (nextTurn_schedule hs), hdecode]
  exact exec_xchg_starts (s := s.withSchedule rest) hb hv hl

/-- The first read of an exchange, the frame `f` sent since `s`. -/
structure FrameWritten (f : List Byte) (rest : List Turn) (s t : State) : Prop where
  newRead : NewRead t
  attempts : t.seq.attempts = 0#8
  frame : txFrame t = f
  params : t.params = s.params
  session : t.session = s.session
  wireOut : t.env.wireOut = s.env.wireOut ++ f
  rxQueue : t.env.rxQueue = s.env.rxQueue
  schedule : t.env.schedule = rest

/-- The write that XCHG starts from its accepted state, with a Transport that accepts every byte. -/
theorem run_startWrite {f : List Byte} (hf : f = builtFrame s.session.xcvr s.session.ctrl s)
    (hb : s.flags.busy = true) (hp : s.params.wf = true) (hm : Memory.wf s.mem = true)
    (hbudget : 1 ≤ s.session.maxAtt.toNat) (hl : lengthFault s = none) (ha : accepting p)
    (hs : s.env.schedule = edges f.length p ++ rest) :
    ∃ t : State, Host.Core.run Sys2Proof.core f.length (startWrite s) = .next t ∧ FrameWritten f rest s t := by
  obtain ⟨hmin, hmax, -⟩ := builtFrame_bounds s.session.xcvr s.session.ctrl hp hl
  have hlen : (startWrite s).regs.txLen.toNat = f.length := hf ▸ build_txLen _ _ hp hl
  have hframe : txFrame (startWrite s) = f := hf ▸ build_frame _ _ hm hp hl
  rw [← hf] at hmin hmax
  have hrun := theWholeFrameIsWrittenInOrder (startWrite s) p rest rfl rfl (by omega) hbudget ha (hlen ▸ hs)
  rw [hframe, hlen] at hrun
  exact ⟨_, hrun,
    { newRead := ⟨rfl, rfl, hb, hp, cellsWf_cellWriteSeq hm _ _, hbudget, hlen.trans_le hmax⟩
      attempts := rfl, frame := hframe, params := rfl, session := rfl, wireOut := rfl, rxQueue := rfl,
      schedule := rfl }⟩

/-- XCHG from its CMD write to its first read. -/
theorem run_xchg_write {f : List Byte} (hf : f = builtFrame s.session.xcvr s.session.ctrl s)
    (hb : s.flags.busy = false) (hp : s.params.wf = true) (hm : Memory.wf s.mem = true)
    (hv : s.flags.svalid = true) (hbudget : 1 ≤ s.session.maxAtt.toNat) (hl : lengthFault s = none)
    (ha : accepting p) (hs : s.env.schedule = .host (.write 0 0x0C#66) :: (edges f.length p ++ rest)) :
    ∃ t : State, Host.Core.run Sys2Proof.core (1 + f.length) s = .next t ∧ FrameWritten f rest s t := by
  obtain ⟨t, hrun, ht⟩ := run_startWrite (s := acceptCommand (s.withSchedule (edges f.length p ++ rest))) hf rfl hp hm
    hbudget hl ha rfl
  exact ⟨t, by rw [Nat.add_comm, run_succ (step_xchg_starts hb hv hl hs), hrun], { ht with }⟩

/-- A frame offered as R280 asks is a candidate as a read delivers it: its own echo is (R101). -/
theorem terminated_builtFrame {dst src : Byte} (hp : s.params.wf = true) (hl : lengthFault s = none)
    (ht : terminatorOnlyLast (builtFrame dst src s) = true) : terminated s (builtFrame dst src s) := by
  obtain ⟨-, hmax, -⟩ := builtFrame_bounds dst src hp hl
  obtain ⟨-, hroom, -⟩ := params_bounds hp
  have htxMax : s.params.txMax = s.params.payMax + 264 := rfl
  obtain ⟨body, hbody⟩ : ∃ body, builtFrame dst src s = body ++ [0xFD#8] := ⟨_, rfl⟩
  refine ⟨body, hbody, fun hmem => ?_, by omega⟩
  rw [hbody, terminatorOnlyLast, List.dropLast_concat, List.all_eq_true] at ht
  exact absurd (ht _ hmem) (by decide)

/-! ### The reply (R216) -/

/-- A new read that receives a matching reply, not NG, ends the exchange in success with the Reply in RXBUF and its
fields exposed. -/
theorem NewRead.accept (h : NewRead s) (ho : offering p) (hc : terminated s c) (hecho : c ≠ txFrame s)
    (h4 : 4 ≤ c.length) (hctrl : c.getD 2 0#8 = s.session.ctrl) (hxcvr : c.getD 3 0#8 = s.session.xcvr)
    (hok : c.getD (c.length - 2) 0#8 ≠ 0xFA#8) (hq : s.env.rxQueue = c ++ queue)
    (hs : s.env.schedule = edges (c.length + 1) p ++ rest) :
    ∃ u : State, Host.Core.run Sys2Proof.core (c.length + 1) s =
        .next (completeOk (setFields c (u.withSchedule rest))) ∧ Received c queue (.edge p :: rest) s u := by
  obtain ⟨u, hrun, hu⟩ := h.receive (rest := .edge p :: rest) ho hc hq (by rw [hs, edges_add, List.append_assoc]; rfl)
  have hvalid : classify (u.withSchedule rest) = completeOk (setFields c (u.withSchedule rest)) := by
    rw [← hu.same.frame] at hecho
    rw [← hu.same.session] at hctrl hxcvr
    rw [← hu.candidate] at hecho h4 hctrl hxcvr hok ⊢
    rw [candidate_length] at h4 hok
    exact classify_valid (s := u.withSchedule rest) hecho h4 hctrl hxcvr hok
  refine ⟨u, ?_, hu⟩
  rw [run_add hrun, run_succ (step_classify hu.fsm (nextTurn_schedule hu.schedule)), hvalid, run_zero]

/-- Settles O48: the frame is sent, its echo dropped, and the reply behind the echo accepted. -/
theorem echoThenReplySucceeds : Obligations.EchoThenReplySucceeds := by
  unfold Obligations.EchoThenReplySucceeds
  intro s p r queue rest hb hp hm hv hbudget hlengths ha ho f hlast hr hecho h4 hctrl hxcvr hok hq hs
  have hfault : lengthFault s = none := lengthFault_none.mpr hlengths
  rw [edges_add, edges_add, List.append_assoc, List.append_assoc] at hs
  obtain ⟨t, hwrite, ht⟩ := run_xchg_write rfl hb hp hm hv hbudget hfault ha hs
  have hf : terminated t f ∧ freeDiscard t f := by
    refine ⟨?_, .inl ht.frame.symm⟩
    rw [terminated, ht.params]
    exact terminated_builtFrame hp hfault hlast
  obtain ⟨v, hback, hvq, hvs⟩ := ht.newRead.drop ho hf (by rw [ht.rxQueue, hq, List.append_assoc]) ht.schedule
  have hsession : v.session = s.session := hback.same.session.trans ht.session
  obtain ⟨u, hreply, hu⟩ := hback.newRead.accept ho
    (by rw [terminated, hback.same.params, ht.params]; exact hr)
    (by rw [hback.same.frame, ht.frame]; exact hecho) h4 (by rw [hsession]; exact hctrl)
    (by rw [hsession]; exact hxcvr) hok hvq hvs
  obtain ⟨w, hfields⟩ := setFields_source (s := u.withSchedule rest) h4
  refine ⟨_, by rw [Nat.add_assoc f.length, ← Nat.add_assoc, run_add hwrite, run_add hback.run, hreply], ?_⟩
  rw [hfields]
  exact ⟨rfl, rfl, rfl, rfl, hu.same.attempts.trans (hback.same.attempts.trans ht.attempts), hu.candidate, hctrl,
    hxcvr, rfl, rfl, hu.same.session.trans hsession,
    hu.same.wireOut.trans (hback.same.wireOut.trans ht.wireOut), hu.rxQueue, rfl⟩

end Sys2Proof.Machine
end

section
/-! SUPPORT. Failures raised at the CMD write: an operation that leaves ERR set raised its failure on the very state it
was accepted in, before it wrote anything. -/

namespace Sys2Proof.Machine

open Sys2Proof Sys2Proof.Claims

variable {s t : State}

/-- Success clears ERR, so an operation that is complete in one step and leaves ERR set has failed (R250, R251). -/
theorem CompletesFrom.raised (h : CompletesFrom s t) (he : t.flags.err = true) :
    ∃ k info, t = raiseFailure k info s := by
  cases h with
  | failure k info _ => exact ⟨k, info, rfl⟩
  | success u _ => rw [completeOk_flags_err] at he; cases he

/-- XCHG out of IDLE sets ERR by a pre-I/O check only: the start of its write leaves the flags alone (R201, R203). -/
theorem opXchg_raised (h0 : s.flags.err = false) (he : (opXchg s).flags.err = true) :
    ∃ k info, opXchg s = raiseFailure k info s := by
  rcases opXchg_cases s with hfailed | hstarts
  · exact hfailed
  · have hkept : (opXchg s).flags = s.flags := by rw [hstarts]; rfl
    rw [hkept, h0] at he
    cases he

/-- A command that sets ERR, from a state with ERR clear, has raised a failure on that state (R252). -/
theorem commandOp_raised {i : Instr} (hc : i.space = .command) (h0 : s.flags.err = false)
    (he : (commandOp i s).flags.err = true) : ∃ k info, commandOp i s = raiseFailure k info s := by
  by_cases hx : i = .xchg
  · subst hx
    exact opXchg_raised h0 he
  · exact (commandOp_completes i hc hx s).raised he

/-- Settles O13: acceptance clears ERR (R80), so a set ERR is a failure raised on the accepted state, and acceptance
and failure together touch the completion flags only. -/
theorem failuresAtTheCommandArePrecise : Obligations.FailuresAtTheCommandArePrecise := by
  unfold Obligations.FailuresAtTheCommandArePrecise
  intro i s t hi hb ht he
  have hc : i.space = .command := wf_iff_space.mp hi
  have hop : commandOp i (acceptCommand s) = t := Host.Outcome.next.inj ((exec_idle hc hb).symm.trans ht)
  obtain ⟨k, info, hraised⟩ := commandOp_raised (s := acceptCommand s) hc rfl (by rw [hop]; exact he)
  have hfailed : t = failed k.code info s := Host.Outcome.next.inj (ht.symm.trans (exec_fails hc hb hraised))
  subst hfailed
  rfl

end Sys2Proof.Machine
end

section
/-! SUPPORT. Reset, and the host's duties: what the reset state shows, that every access inside the register space is
answered, and that a turn inside the duties is no breach. -/

namespace Sys2Proof.Machine

open Sys2Proof Sys2Proof.Safety Sys2Proof.Claims

variable {s : State}

/-! ### Reset (R270, R271) -/

/-- STATUS is computed from the sequencing state and the flags, which a reset takes from the reset state; each of its
fields is 0 there (R26, R270). -/
theorem statusWord_resetBlock (s : State) : statusWord (resetBlock s) = 0#16 :=
  calc statusWord (resetBlock s)
    _ = statusWord State.reset := rfl
    _ = 0#16 := by decide

/-- After a reset the engine is idle and no output is raised (R69, R246, R270). -/
theorem resetBlock_pins (s : State) :
    txValid (resetBlock s) = false ∧ rxReady (resetBlock s) = false ∧ rdActive (resetBlock s) = false ∧
      donePin (resetBlock s) = false ∧ errPin (resetBlock s) = false :=
  ⟨rfl, rfl, rfl, rfl, rfl⟩

/-- A reset never leaves DROPPED set (R270). -/
theorem resetBlock_flags_dropped (s : State) : (resetBlock s).flags.dropped = false := rfl

/-- Settles O50: the reset state is what a reset makes of itself, and an idle engine has neither frame nor
candidate. -/
theorem theInvariantsHoldAtReset : Obligations.TheInvariantsHoldAtReset := by
  unfold Obligations.TheInvariantsHoldAtReset
  have hparams : State.reset.params.wf = true := by decide
  exact ⟨invariant_resetBlock hparams, frameCoherent_of_idle rfl, candidateFramed_of_fsm nofun nofun⟩

/-- Settles O54: the step is `resetBlock`, which writes the reset value into every register and keeps parameters and
environment. -/
theorem resetTakesTheResetState : Obligations.ResetTakesTheResetState := by
  unfold Obligations.ResetTakesTheResetState
  intro s rest h
  obtain ⟨htxValid, hrxReady, hrdActive, hdone, herr⟩ := resetBlock_pins (s.withSchedule rest)
  exact ⟨resetBlock (s.withSchedule rest), step_reset h, rfl, rfl, rfl, statusWord_resetBlock _, rfl, rfl, rfl, rfl,
    rfl, rfl, rfl, rfl, rfl, htxValid, hrxReady, hrdActive, hdone, herr, rfl, rfl⟩

/-! ### The host's duties (R277) -/

/-- A word written to CMD is always answered: dropped, or carried out (R80, R81). -/
theorem onCommand_answers (op : State → State) (s : State) : ∃ t, onCommand op s = .next t := by
  cases hb : s.flags.busy with
  | true => exact ⟨_, onCommand_busy op hb⟩
  | false => exact ⟨_, onCommand_idle op hb⟩

/-- A host write to CMD is answered, whatever the word: a command or a reserved word (R80, R107). -/
theorem step_command_answers {v : HostWord} {rest : List Turn} (h : nextTurn s.env = (.host (.write 0 v), rest)) :
    ∃ t, step s = .next t := by
  rw [step_command h]
  cases hd : decodeCommand (v.setWidth 8) with
  | ok i =>
    obtain ⟨t, ht⟩ := onCommand_answers (commandOp i) (s.withSchedule rest)
    exact ⟨t, (exec_command i (decodeCommand_space hd) _).trans ht⟩
  | error r => exact onCommand_answers _ _

/-- Only an access outside the register space stops the machine (R60). -/
theorem step_answers (hwrite : ∀ n v, (nextTurn s.env).1 = .host (.write n v) → n < 0x4000)
    (hread : ∀ n, (nextTurn s.env).1 = .host (.read n) → n < 0x4000) : ∃ t, step s = .next t := by
  obtain ⟨turn, rest, h⟩ : ∃ turn rest, nextTurn s.env = (turn, rest) := ⟨_, _, rfl⟩
  have hturn : (nextTurn s.env).1 = turn := congrArg Prod.fst h
  cases turn with
  | edge p => exact ⟨_, step_edge h⟩
  | host a =>
    cases a with
    | write n v =>
      by_cases h0 : n = 0
      · subst h0; exact step_command_answers h
      · exact ⟨_, step_write h h0 (hwrite n v hturn)⟩
    | read n => exact ⟨_, step_read h (hread n hturn)⟩
  | arrive b => exact ⟨_, step_arrive h⟩
  | baud v => exact ⟨_, step_baud h⟩
  | reset => exact ⟨_, step_reset h⟩

/-- A write inside the duties is to a number of the register space, and never while BUSY = 1. -/
theorem dutifulTurn_write {n : Nat} {v : HostWord} (hd : dutifulTurn s = true)
    (h : (nextTurn s.env).1 = .host (.write n v)) : n < 0x4000 ∧ s.flags.busy = false := by
  simp only [dutifulTurn, h, dutifulAccess, Bool.and_eq_true, decide_eq_true_eq, Bool.not_eq_true'] at hd
  exact hd.1

/-- A read inside the duties is of a number of the register space. -/
theorem dutifulTurn_read {n : Nat} (hd : dutifulTurn s = true) (h : (nextTurn s.env).1 = .host (.read n)) :
    n < 0x4000 := by
  simp only [dutifulTurn, h, dutifulAccess, Bool.and_eq_true, decide_eq_true_eq] at hd
  exact hd.1

/-- Settles O56: the duties keep every access in the register space, so the step is answered; and they exclude the one
breach that sets DROPPED, which a reset clears. -/
theorem dutifulTurnsNeverStop : Obligations.DutifulTurnsNeverStop := by
  unfold Obligations.DutifulTurnsNeverStop
  intro s hd
  obtain ⟨t, ht⟩ := step_answers (fun _ _ h => (dutifulTurn_write hd h).1) (fun _ h => dutifulTurn_read hd h)
  refine ⟨t, ht, fun hdropped => ?_⟩
  by_cases hr : resetTurn s
  · have hreset : t = resetBlock (s.withSchedule (nextTurn s.env).2) :=
      Host.Outcome.next.inj (ht.symm.trans (step_reset (Prod.ext hr rfl)))
    rw [hreset, resetBlock_flags_dropped] at hdropped
    cases hdropped
  · rcases (droppedRecordsABreach s t ht hr).mp hdropped with hbefore | ⟨hbusy, n, v, hw⟩
    · exact hbefore
    · have hidle := (dutifulTurn_write hd hw).2
      rw [hbusy] at hidle
      cases hidle

end Sys2Proof.Machine
end
